-- ==== Sys2Proof/Word.lean ====
section
/-!
DEFINITION. The word types of the core (spec 10_state.md R20, 30_encoding.md R71).
-/

namespace Sys2Proof

/-- One memory cell, one general register, an 8-bit immediate `NN` (R21, R50, R71). -/
abbrev Byte := BitVec 8

/-- An instruction word, the program counter, the address register, a stack entry (R23, R24, R25, R70). -/
abbrev Word := BitVec 16

/-- A 4-bit field: a register index `X` or `Y`, a row count `N` (R71). -/
abbrev Nibble := BitVec 4

/-- The 12-bit address field `NNN` (R71). -/
abbrev Addr := BitVec 12

end Sys2Proof
end

