-- ==== Sys2Proof/Syntax.lean ====
section
/-!
DEFINITION. The 34 instructions of spec/opcode_table.json, one constructor per row, in the table's order.
-/

namespace Sys2Proof

/-- An instruction with its operand fields (30_encoding.md R71, R72). A field has exactly the width the encoding
gives it. `shr` and `shl` keep the `Y` they encode and do not read. -/
inductive Instr where
  /-- `00E0`, `CLS` (R181). -/
  | cls
  /-- `00EE`, `RET` (R110). -/
  | ret
  /-- `1NNN`, `JP addr` (R111). -/
  | jp (nnn : Addr)
  /-- `2NNN`, `CALL addr` (R112). -/
  | call (nnn : Addr)
  /-- `3XNN`, `SE Vx, byte` (R113). -/
  | seImm (x : Nibble) (nn : Byte)
  /-- `4XNN`, `SNE Vx, byte` (R114). -/
  | sneImm (x : Nibble) (nn : Byte)
  /-- `5XY0`, `SE Vx, Vy` (R115). -/
  | seReg (x y : Nibble)
  /-- `6XNN`, `LD Vx, byte` (R130). -/
  | ldImm (x : Nibble) (nn : Byte)
  /-- `7XNN`, `ADD Vx, byte` (R131). -/
  | addImm (x : Nibble) (nn : Byte)
  /-- `8XY0`, `LD Vx, Vy` (R132). -/
  | ldReg (x y : Nibble)
  /-- `8XY1`, `OR Vx, Vy` (R133). -/
  | orReg (x y : Nibble)
  /-- `8XY2`, `AND Vx, Vy` (R134). -/
  | andReg (x y : Nibble)
  /-- `8XY3`, `XOR Vx, Vy` (R135). -/
  | xorReg (x y : Nibble)
  /-- `8XY4`, `ADD Vx, Vy` (R136). -/
  | addReg (x y : Nibble)
  /-- `8XY5`, `SUB Vx, Vy` (R137). -/
  | sub (x y : Nibble)
  /-- `8XY6`, `SHR Vx, Vy` (R138). -/
  | shr (x y : Nibble)
  /-- `8XY7`, `SUBN Vx, Vy` (R139). -/
  | subn (x y : Nibble)
  /-- `8XYE`, `SHL Vx, Vy` (R140). -/
  | shl (x y : Nibble)
  /-- `9XY0`, `SNE Vx, Vy` (R116). -/
  | sneReg (x y : Nibble)
  /-- `ANNN`, `LD I, addr` (R160). -/
  | ldI (nnn : Addr)
  /-- `BNNN`, `JP V0, addr` (R117). -/
  | jpV0 (nnn : Addr)
  /-- `CXNN`, `RND Vx, byte` (R141). -/
  | rnd (x : Nibble) (nn : Byte)
  /-- `DXYN`, `DRW Vx, Vy, nibble` (R182). -/
  | drw (x y n : Nibble)
  /-- `EX9E`, `SKP Vx` (R200). -/
  | skp (x : Nibble)
  /-- `EXA1`, `SKNP Vx` (R201). -/
  | sknp (x : Nibble)
  /-- `FX07`, `LD Vx, DT` (R203). -/
  | ldVxDt (x : Nibble)
  /-- `FX0A`, `LD Vx, K` (R202). -/
  | ldVxK (x : Nibble)
  /-- `FX15`, `LD DT, Vx` (R204). -/
  | ldDtVx (x : Nibble)
  /-- `FX18`, `LD ST, Vx` (R205). -/
  | ldStVx (x : Nibble)
  /-- `FX1E`, `ADD I, Vx` (R161). -/
  | addI (x : Nibble)
  /-- `FX29`, `LD F, Vx` (R162). -/
  | ldF (x : Nibble)
  /-- `FX33`, `LD B, Vx` (R163). -/
  | ldB (x : Nibble)
  /-- `FX55`, `LD [I], Vx` (R164). -/
  | ldMemStore (x : Nibble)
  /-- `FX65`, `LD Vx, [I]` (R165). -/
  | ldMemLoad (x : Nibble)
  deriving DecidableEq, Repr

end Sys2Proof
end

