-- ==== Sys2Proof/Decode.lean ====
section
/-!
DEFINITION. The opcode table as masks and matches, the decoder (total on every word and on every list of bytes,
rejecting by name) and the encoder (spec 30_encoding.md R70-R79, 40_cycle_driver.md R93).
-/

namespace Sys2Proof

/-- Why bytes are no instruction. -/
inductive DecodeError where
  /-- The word matches no row of the table (R76): the verdict `illegal` of R79. The cycle driver turns it into the
  fault `ILLEGAL_INSTRUCTION`. -/
  | illegal (w : Word)
  /-- Fewer than two bytes were given. The cycle driver never asks this: it fetches two bytes or faults (R92). -/
  | truncated
  deriving DecidableEq, Repr

/-- One row of spec/opcode_table.json: a word `w` is the row's iff `(w & mask) = pattern` (R75). -/
structure OpcodeRow where
  pattern : Word
  mask    : Word
  deriving DecidableEq, Repr

/-- Whether a word matches the row (R75). -/
def OpcodeRow.matchesWord (r : OpcodeRow) (w : Word) : Bool := w &&& r.mask == r.pattern

/-- The row of each instruction, its `match` and `mask` as the table gives them. -/
def Instr.row : Instr → OpcodeRow
  | .cls          => ⟨0x00E0, 0xFFFF⟩
  | .ret          => ⟨0x00EE, 0xFFFF⟩
  | .jp _         => ⟨0x1000, 0xF000⟩
  | .call _       => ⟨0x2000, 0xF000⟩
  | .seImm _ _    => ⟨0x3000, 0xF000⟩
  | .sneImm _ _   => ⟨0x4000, 0xF000⟩
  | .seReg _ _    => ⟨0x5000, 0xF00F⟩
  | .ldImm _ _    => ⟨0x6000, 0xF000⟩
  | .addImm _ _   => ⟨0x7000, 0xF000⟩
  | .ldReg _ _    => ⟨0x8000, 0xF00F⟩
  | .orReg _ _    => ⟨0x8001, 0xF00F⟩
  | .andReg _ _   => ⟨0x8002, 0xF00F⟩
  | .xorReg _ _   => ⟨0x8003, 0xF00F⟩
  | .addReg _ _   => ⟨0x8004, 0xF00F⟩
  | .sub _ _      => ⟨0x8005, 0xF00F⟩
  | .shr _ _      => ⟨0x8006, 0xF00F⟩
  | .subn _ _     => ⟨0x8007, 0xF00F⟩
  | .shl _ _      => ⟨0x800E, 0xF00F⟩
  | .sneReg _ _   => ⟨0x9000, 0xF00F⟩
  | .ldI _        => ⟨0xA000, 0xF000⟩
  | .jpV0 _       => ⟨0xB000, 0xF000⟩
  | .rnd _ _      => ⟨0xC000, 0xF000⟩
  | .drw _ _ _    => ⟨0xD000, 0xF000⟩
  | .skp _        => ⟨0xE09E, 0xF0FF⟩
  | .sknp _       => ⟨0xE0A1, 0xF0FF⟩
  | .ldVxDt _     => ⟨0xF007, 0xF0FF⟩
  | .ldVxK _      => ⟨0xF00A, 0xF0FF⟩
  | .ldDtVx _     => ⟨0xF015, 0xF0FF⟩
  | .ldStVx _     => ⟨0xF018, 0xF0FF⟩
  | .addI _       => ⟨0xF01E, 0xF0FF⟩
  | .ldF _        => ⟨0xF029, 0xF0FF⟩
  | .ldB _        => ⟨0xF033, 0xF0FF⟩
  | .ldMemStore _ => ⟨0xF055, 0xF0FF⟩
  | .ldMemLoad _  => ⟨0xF065, 0xF0FF⟩

/-- The 34 rows of spec/opcode_table.json, in the table's order. -/
def opcodeTable : List OpcodeRow :=
  [⟨0x00E0, 0xFFFF⟩, ⟨0x00EE, 0xFFFF⟩, ⟨0x1000, 0xF000⟩, ⟨0x2000, 0xF000⟩, ⟨0x3000, 0xF000⟩,
   ⟨0x4000, 0xF000⟩, ⟨0x5000, 0xF00F⟩, ⟨0x6000, 0xF000⟩, ⟨0x7000, 0xF000⟩, ⟨0x8000, 0xF00F⟩,
   ⟨0x8001, 0xF00F⟩, ⟨0x8002, 0xF00F⟩, ⟨0x8003, 0xF00F⟩, ⟨0x8004, 0xF00F⟩, ⟨0x8005, 0xF00F⟩,
   ⟨0x8006, 0xF00F⟩, ⟨0x8007, 0xF00F⟩, ⟨0x800E, 0xF00F⟩, ⟨0x9000, 0xF00F⟩] ++
  [⟨0xA000, 0xF000⟩, ⟨0xB000, 0xF000⟩, ⟨0xC000, 0xF000⟩, ⟨0xD000, 0xF000⟩, ⟨0xE09E, 0xF0FF⟩,
   ⟨0xE0A1, 0xF0FF⟩, ⟨0xF007, 0xF0FF⟩, ⟨0xF00A, 0xF0FF⟩, ⟨0xF015, 0xF0FF⟩, ⟨0xF018, 0xF0FF⟩,
   ⟨0xF01E, 0xF0FF⟩, ⟨0xF029, 0xF0FF⟩, ⟨0xF033, 0xF0FF⟩, ⟨0xF055, 0xF0FF⟩, ⟨0xF065, 0xF0FF⟩]

/-- Field extraction (R71), numbered from the least significant bit (R6). -/
def fieldClass (w : Word) : Nibble := w.extractLsb' 12 4
/-- `X`, bits 11:8. -/
def fieldX (w : Word) : Nibble := w.extractLsb' 8 4
/-- `Y`, bits 7:4. -/
def fieldY (w : Word) : Nibble := w.extractLsb' 4 4
/-- `N`, bits 3:0. -/
def fieldN (w : Word) : Nibble := w.extractLsb' 0 4
/-- `NN`, bits 7:0. -/
def fieldNN (w : Word) : Byte := w.extractLsb' 0 8
/-- `NNN`, bits 11:0. -/
def fieldNNN (w : Word) : Addr := w.extractLsb' 0 12

/-- Class 0: the whole word is fixed (R74). -/
def decodeClass0 (w : Word) : Except DecodeError Instr :=
  if w = 0x00E0 then .ok .cls
  else if w = 0x00EE then .ok .ret
  else .error (.illegal w)

/-- Class 8: the low nibble selects (R74). -/
def decodeClass8 (w : Word) : Except DecodeError Instr :=
  match (fieldN w).toNat with
  | 0x0 => .ok (.ldReg (fieldX w) (fieldY w))
  | 0x1 => .ok (.orReg (fieldX w) (fieldY w))
  | 0x2 => .ok (.andReg (fieldX w) (fieldY w))
  | 0x3 => .ok (.xorReg (fieldX w) (fieldY w))
  | 0x4 => .ok (.addReg (fieldX w) (fieldY w))
  | 0x5 => .ok (.sub (fieldX w) (fieldY w))
  | 0x6 => .ok (.shr (fieldX w) (fieldY w))
  | 0x7 => .ok (.subn (fieldX w) (fieldY w))
  | 0xE => .ok (.shl (fieldX w) (fieldY w))
  | _   => .error (.illegal w)

/-- Class E: the low byte selects (R74). -/
def decodeClassE (w : Word) : Except DecodeError Instr :=
  match (fieldNN w).toNat with
  | 0x9E => .ok (.skp (fieldX w))
  | 0xA1 => .ok (.sknp (fieldX w))
  | _    => .error (.illegal w)

/-- Class F: the low byte selects (R74). -/
def decodeClassF (w : Word) : Except DecodeError Instr :=
  match (fieldNN w).toNat with
  | 0x07 => .ok (.ldVxDt (fieldX w))
  | 0x0A => .ok (.ldVxK (fieldX w))
  | 0x15 => .ok (.ldDtVx (fieldX w))
  | 0x18 => .ok (.ldStVx (fieldX w))
  | 0x1E => .ok (.addI (fieldX w))
  | 0x29 => .ok (.ldF (fieldX w))
  | 0x33 => .ok (.ldB (fieldX w))
  | 0x55 => .ok (.ldMemStore (fieldX w))
  | 0x65 => .ok (.ldMemLoad (fieldX w))
  | _    => .error (.illegal w)

/-- Decode one word (R79, R93): an instruction with its fields, or the verdict `illegal`. -/
def decodeWord (w : Word) : Except DecodeError Instr :=
  match (fieldClass w).toNat with
  | 0x0 => decodeClass0 w
  | 0x1 => .ok (.jp (fieldNNN w))
  | 0x2 => .ok (.call (fieldNNN w))
  | 0x3 => .ok (.seImm (fieldX w) (fieldNN w))
  | 0x4 => .ok (.sneImm (fieldX w) (fieldNN w))
  | 0x5 => if fieldN w = 0 then .ok (.seReg (fieldX w) (fieldY w)) else .error (.illegal w)
  | 0x6 => .ok (.ldImm (fieldX w) (fieldNN w))
  | 0x7 => .ok (.addImm (fieldX w) (fieldNN w))
  | 0x8 => decodeClass8 w
  | 0x9 => if fieldN w = 0 then .ok (.sneReg (fieldX w) (fieldY w)) else .error (.illegal w)
  | 0xA => .ok (.ldI (fieldNNN w))
  | 0xB => .ok (.jpV0 (fieldNNN w))
  | 0xC => .ok (.rnd (fieldX w) (fieldNN w))
  | 0xD => .ok (.drw (fieldX w) (fieldY w) (fieldN w))
  | 0xE => decodeClassE w
  | 0xF => decodeClassF w
  | _   => .error (.illegal w)

/-- The instruction word of two bytes, big-endian (R54, D2): `hi` is the byte at the lower address. -/
def wordOfBytes (hi lo : Byte) : Word := hi ++ lo

/-- The byte an instruction word puts at the lower address (R54). -/
def highByte (w : Word) : Byte := w.extractLsb' 8 8

/-- The byte an instruction word puts at the higher address (R54). -/
def lowByte (w : Word) : Byte := w.extractLsb' 0 8

/-- Decode the first instruction of a list of bytes and answer it with the bytes after it (R70: always two). -/
def decodeBytes : List Byte → Except DecodeError (Instr × List Byte)
  | hi :: lo :: rest =>
    match decodeWord (wordOfBytes hi lo) with
    | .ok i    => .ok (i, rest)
    | .error e => .error e
  | _ => .error .truncated

/-- `F_NNN` (R72): class and a 12-bit address. -/
def formatNNN (c : Nibble) (nnn : Addr) : Word := c ++ nnn

/-- `F_XNN` and `F_XSS` (R72): class, `X`, and a byte that is an operand or a fixed subcode. -/
def formatXNN (c x : Nibble) (nn : Byte) : Word := c ++ x ++ nn

/-- `F_XYS` and `F_XYN` (R72): class, `X`, `Y`, and a nibble that is a fixed subcode or an operand. -/
def formatXYN (c x y n : Nibble) : Word := c ++ x ++ y ++ n

/-- The word of an instruction, from the formats of R72 and the opcode map of R74. -/
def encode : Instr → Word
  | .cls          => 0x00E0
  | .ret          => 0x00EE
  | .jp nnn       => formatNNN 0x1 nnn
  | .call nnn     => formatNNN 0x2 nnn
  | .seImm x nn   => formatXNN 0x3 x nn
  | .sneImm x nn  => formatXNN 0x4 x nn
  | .seReg x y    => formatXYN 0x5 x y 0x0
  | .ldImm x nn   => formatXNN 0x6 x nn
  | .addImm x nn  => formatXNN 0x7 x nn
  | .ldReg x y    => formatXYN 0x8 x y 0x0
  | .orReg x y    => formatXYN 0x8 x y 0x1
  | .andReg x y   => formatXYN 0x8 x y 0x2
  | .xorReg x y   => formatXYN 0x8 x y 0x3
  | .addReg x y   => formatXYN 0x8 x y 0x4
  | .sub x y      => formatXYN 0x8 x y 0x5
  | .shr x y      => formatXYN 0x8 x y 0x6
  | .subn x y     => formatXYN 0x8 x y 0x7
  | .shl x y      => formatXYN 0x8 x y 0xE
  | .sneReg x y   => formatXYN 0x9 x y 0x0
  | .ldI nnn      => formatNNN 0xA nnn
  | .jpV0 nnn     => formatNNN 0xB nnn
  | .rnd x nn     => formatXNN 0xC x nn
  | .drw x y n    => formatXYN 0xD x y n
  | .skp x        => formatXNN 0xE x 0x9E
  | .sknp x       => formatXNN 0xE x 0xA1
  | .ldVxDt x     => formatXNN 0xF x 0x07
  | .ldVxK x      => formatXNN 0xF x 0x0A
  | .ldDtVx x     => formatXNN 0xF x 0x15
  | .ldStVx x     => formatXNN 0xF x 0x18
  | .addI x       => formatXNN 0xF x 0x1E
  | .ldF x        => formatXNN 0xF x 0x29
  | .ldB x        => formatXNN 0xF x 0x33
  | .ldMemStore x => formatXNN 0xF x 0x55
  | .ldMemLoad x  => formatXNN 0xF x 0x65

/-- The two bytes of an instruction as they lie in memory (R54). -/
def encodeBytes (i : Instr) : List Byte := [highByte (encode i), lowByte (encode i)]

/-- The one instruction word whose low `nbits` bits are those of `w`, the bits above them zero. -/
def tableWord (nbits w : Nat) : Word := BitVec.ofNat 16 (w % 2 ^ nbits)

/-- What the decoder reads from the instruction whose bits are `w`, numbered as spec/opcode_table.json numbers
them (bit 0 the least significant bit of the word): the word is laid out as two bytes, big-endian, and decoded. -/
def decodeTableWord (nbits w : Nat) : Option Instr :=
  match decodeBytes [highByte (tableWord nbits w), lowByte (tableWord nbits w)] with
  | .ok (i, _) => some i
  | .error _   => none

end Sys2Proof
end

