-- ==== Sys2Proof/Config.lean ====
section
/-!
DEFINITION. What an implementation fixes: the sizes and the parameters of spec 00_scope.md R5, and the one
free value, the random byte of `CXNN`.
-/

namespace Sys2Proof.Config

/-- `MEM_SIZE` (R5, R50). -/
def memSize : Nat := 4096

/-- `PROGRAM_BASE` (R5, R56): where the host loads a program, and the reset `PC` (R264). -/
def programBase : Nat := 0x200

/-- `MAX_IMAGE` (R5, R262). -/
def maxImage : Nat := 3584

/-- `FONT` is 80 bytes at `FONT_BASE = 0x000` (R5, R56). -/
def fontSize : Nat := 80

/-- `I_WIDTH` (R5, R23; D13). -/
inductive IWidth where
  | w16
  | w12
  deriving DecidableEq, Repr

/-- The width in bits. -/
def IWidth.bits : IWidth → Nat
  | .w16 => 16
  | .w12 => 12

/-- `DRAW_EDGE` (R5, R183, R184; D6). -/
inductive DrawEdge where
  | wrap
  | clip
  deriving DecidableEq, Repr

/-- `EXA1_MODE` (R5, R201; D7). -/
inductive Exa1Mode where
  | rawNibble
  | dereference
  deriving DecidableEq, Repr

/-- `VF_DEST_ORDER` (R5, R143; D4). -/
inductive VfDestOrder where
  | resultLast
  | flagLast
  deriving DecidableEq, Repr

/-- The parameters a model "takes as arguments" (R5). DESIGN CHOICE, safe: they are plain data carried in the
state, so that a statement about every state is a statement about every setting (log 3). -/
structure Params where
  iWidth      : IWidth
  drawEdge    : DrawEdge
  exa1Mode    : Exa1Mode
  vfDestOrder : VfDestOrder
  font        : Vector Byte 80
  deriving DecidableEq, Repr

/-- The conventional glyphs 0 to F, five bytes each (D22). UNVERIFIED: the spec gives them and marks them "from general
knowledge, not in source"; unsafe for a claim that rests on these bytes (log 4). -/
def defaultFont : Vector Byte 80 :=
  #v[0xF0, 0x90, 0x90, 0x90, 0xF0,  0x20, 0x60, 0x20, 0x20, 0x70,
     0xF0, 0x10, 0xF0, 0x80, 0xF0,  0xF0, 0x10, 0xF0, 0x10, 0xF0,
     0x90, 0x90, 0xF0, 0x10, 0x10,  0xF0, 0x80, 0xF0, 0x10, 0xF0,
     0xF0, 0x80, 0xF0, 0x90, 0xF0,  0xF0, 0x10, 0x20, 0x40, 0x40,
     0xF0, 0x90, 0xF0, 0x90, 0xF0,  0xF0, 0x90, 0xF0, 0x10, 0xF0,
     0xF0, 0x90, 0xF0, 0x90, 0x90,  0xE0, 0x90, 0xE0, 0x90, 0xE0,
     0xF0, 0x80, 0x80, 0x80, 0xF0,  0xE0, 0x90, 0x90, 0x90, 0xE0,
     0xF0, 0x80, 0xF0, 0x80, 0xF0,  0xF0, 0x80, 0xF0, 0x80, 0x80]

/-- The defaults of R5 and of 92_eei_decisions.md, "Open parameters". -/
def Params.default : Params where
  iWidth      := .w16
  drawEdge    := .wrap
  exa1Mode    := .rawNibble
  vfDestOrder := .resultLast
  font        := defaultFont

/-- `rand8`, "a free 8-bit input ... under no law" (R5, R141; D26): the byte of the n-th draw. It has no body, so
nothing can be proved of its values (log 2). -/
opaque rand8 : Nat → Byte

end Sys2Proof.Config
end

