-- ==== Sys2Proof/Machine/State.lean ====
section
/-!
DEFINITION. Everything the spec gives the machine as plain data (10_state.md R20-R36), the reasons a step can stop,
and the state after reset.
-/

namespace Sys2Proof.Machine

/-- `FaultCause` (60_exceptions.md R220): the causes by name, codes 0 to 5. Codes 6 and 7 are never written (R35), and
this type has no name for them. -/
inductive FaultCause where
  /-- 0: no fault has occurred. -/
  | noFault
  /-- 1: the fetched word matches no row of the opcode table. -/
  | illegalInstruction
  /-- 2: `2NNN` with `SP = 16`. -/
  | stackOverflow
  /-- 3: `00EE` with `SP = 0`. -/
  | stackUnderflow
  /-- 4: an access or a fetch at an address of 4096 or more. -/
  | memoryBounds
  /-- 5: a key code above 15 taken from `V[X]`. -/
  | keyIndex
  deriving DecidableEq, Repr

/-- The reasons the cycle loop stops. The machine's own faults (R220) are NOT stops of `step`: the spec describes
their entry (R222), so a faulting step answers a NEXT state that holds the fault record. -/
inductive Fault where
  /-- "halt the cycle loop" (R221, R223): the core is halted by a fault of this cause. Answered by
  `Safety.cycleLoop`, the driver that stops at a halted core; never by `step` or `exec`, for which a halted core is a
  next state that is unchanged (R91). Safe: nothing runs on where the hardware stands still. -/
  | halted (cause : FaultCause)
  deriving DecidableEq, Repr

/-- The reasons a step is given no meaning. -/
inductive Refusal where
  /-- An instruction the model gives no meaning. Answered by no arm of `exec`: all 34 instructions have their meaning.
  Safe. -/
  | notModelled (mnemonic : String)
  deriving DecidableEq, Repr

/-- Main memory (20_memory.md R50) as its listed cells. An address that is not listed reads as
`Memory.unlisted` says; `Memory.wf` (Machine/Ops.lean) is the canonical form. -/
abbrev Memory := List Host.Cell

/-- The core's state: R20's table, field by field, then the two fields that are the model's own. -/
structure State where
  /-- `Mem`, 4096 bytes (R50). -/
  mem        : Memory
  /-- `V[0..15]` (R21); `V[15]` is `VF` (R22). -/
  v          : Vector Byte 16
  /-- `I`, a value below `2^I_WIDTH` (R23). -/
  i          : Word
  /-- `PC` (R24). -/
  pc         : Word
  /-- `Stack[0..15]` (R25). -/
  stack      : Vector Word 16
  /-- `SP`, 0 to 16, the next free slot (R25, R35). -/
  sp         : Fin 17
  /-- `DT` (R26). -/
  dt         : Byte
  /-- `ST` (R27). -/
  st         : Byte
  /-- `FB`, 2048 cells, `FB[x, y]` at index `x + 64*y` (R28, R180). -/
  fb         : Vector Bool 2048
  /-- `Dirty` (R29). -/
  dirty      : Bool
  /-- `Key[0..15]` (R30). -/
  key        : Vector Bool 16
  /-- `WaitActive` (R31). -/
  waitActive : Bool
  /-- `KeySnap[0..15]` (R31). -/
  keySnap    : Vector Bool 16
  /-- `Halted` (R32). -/
  halted     : Bool
  /-- `FaultCause` (R32, R220). -/
  faultCause : FaultCause
  /-- `FaultPC` (R32). -/
  faultPC    : Word
  /-- `FaultWord` (R32). -/
  faultWord  : Word
  /-- `FaultAddr` (R32). -/
  faultAddr  : Word
  /-- The MODEL's own: the implementation parameters of R5, written by no operation. DESIGN CHOICE, safe (log 3). -/
  params     : Config.Params
  /-- The MODEL's own: how many random bytes have been drawn (R141, D26). DESIGN CHOICE, safe (log 2). -/
  draws      : Nat
  deriving DecidableEq, Repr

/-- The reset state for given parameters (R36, R260). Memory lists nothing: an unlisted address reads as the reset
contents. -/
def State.resetWith (p : Config.Params) : State where
  mem        := []
  v          := Vector.replicate 16 0
  i          := 0
  pc         := 0x200
  stack      := Vector.replicate 16 0
  sp         := 0
  dt         := 0
  st         := 0
  fb         := Vector.replicate 2048 false
  dirty      := false
  key        := Vector.replicate 16 false
  waitActive := false
  keySnap    := Vector.replicate 16 false
  halted     := false
  faultCause := .noFault
  faultPC    := 0
  faultWord  := 0
  faultAddr  := 0
  params     := p
  draws      := 0

/-- The machine right after reset, at the spec's default parameters (R5, R36). -/
def State.reset : State := State.resetWith Config.Params.default

end Sys2Proof.Machine
end

