-- ==== Sys2Proof/Machine/Ops.lean ====
section
/-!
DEFINITION. The named operations over memory and registers, the shared fault entry (R222), and the fetch of the
cycle driver (R90-R93). This hardware has no return from an exception (R226, R227): none stands here.
-/

namespace Sys2Proof.Machine

/-- The code of a fault cause as the host reads it (R220), 3 bits (R35). -/
def FaultCause.code : FaultCause → BitVec 3
  | .noFault            => 0
  | .illegalInstruction => 1
  | .stackOverflow      => 2
  | .stackUnderflow     => 3
  | .memoryBounds       => 4
  | .keyIndex           => 5

/-! ### Memory -/

/-- What an unlisted address reads as: the reset contents, `FONT` at `0x000`-`0x04F` and 0 elsewhere (R36, R56,
R261). -/
def Memory.unlisted (p : Config.Params) (a : Nat) : Byte :=
  if h : a < 80 then p.font[a] else 0

/-- The byte at address `a`. Bounds are checked by the caller, before the access (R52). -/
def Memory.read (p : Config.Params) : Memory → Nat → Byte
  | [], a          => Memory.unlisted p a
  | (k, c) :: m, a => if k = a then c else Memory.read p m a

/-- List address `a` with byte `b`, keeping the addresses rising. -/
def Memory.insert : Memory → Nat → Byte → Memory
  | [], a, b          => [(a, b)]
  | (k, c) :: m, a, b =>
    if a < k then (a, b) :: (k, c) :: m
    else if a = k then (a, b) :: m
    else (k, c) :: Memory.insert m a b

/-- Take address `a` off the list. -/
def Memory.erase : Memory → Nat → Memory
  | [], _          => []
  | (k, c) :: m, a => if k = a then m else (k, c) :: Memory.erase m a

/-- Write byte `b` at address `a`, keeping the canonical form. -/
def Memory.write (p : Config.Params) (m : Memory) (a : Nat) (b : Byte) : Memory :=
  if b = Memory.unlisted p a then Memory.erase m a else Memory.insert m a b

/-- Write a run of bytes at `a`, `a+1`, ... in ascending order (R55). -/
def Memory.writeRun (p : Config.Params) : Memory → Nat → List Byte → Memory
  | m, _, []      => m
  | m, a, b :: bs => Memory.writeRun p (Memory.write p m a b) (a + 1) bs

/-- Read a run of `n` bytes from `a` in ascending order (R55). -/
def Memory.readRun (p : Config.Params) (m : Memory) : Nat → Nat → List Byte
  | _, 0     => []
  | a, n + 1 => Memory.read p m a :: Memory.readRun p m (a + 1) n

/-- The canonical form: addresses strictly rising, each inside the 4096 bytes (R50), and no entry equal to what an
unlisted address reads as. -/
abbrev Memory.wf (p : Config.Params) (m : Memory) : Prop :=
  m.Pairwise (fun c d => c.1 < d.1) ∧ ∀ c ∈ m, c.1 < Config.memSize ∧ c.2 ≠ Memory.unlisted p c.1

/-- The byte at address `a` of the state's memory. -/
def State.readByte (s : State) (a : Nat) : Byte := Memory.read s.params s.mem a

/-- Store a run of bytes from address `a`. -/
def State.storeRun (s : State) (a : Nat) (bytes : List Byte) : State :=
  { s with mem := Memory.writeRun s.params s.mem a bytes }

/-- Load `n` bytes from address `a`. -/
def State.loadRun (s : State) (a n : Nat) : List Byte := Memory.readRun s.params s.mem a n

/-- Whether every address of the run of `n` bytes from `a` is inside memory (R52): the exact natural addresses, never
wrapped. An empty run makes no access. -/
def runFits (a n : Nat) : Bool := decide (n = 0 ∨ a + n ≤ Config.memSize)

/-- The lowest out-of-range address of a run from `a` that does not fit (R32). -/
def lowestOutside (a : Nat) : Nat := max a 0x1000

/-! ### Registers -/

/-- The register a 4-bit field names (R21). -/
def regIndex (x : Nibble) : Fin 16 := x.toFin

/-- The field value of `VF` (R22). -/
abbrev vf : Nibble := 0xF

/-- Read `V[x]` (R8, R21). -/
def State.reg (s : State) (x : Nibble) : Byte := s.v[regIndex x]

/-- Write `V[x]` (R8, R21). -/
def State.setReg (s : State) (x : Nibble) (b : Byte) : State :=
  { s with v := s.v.set (regIndex x) b }

/-- Write consecutive registers from number `k` on, ascending with the bytes (R55). -/
def writeRegs : Vector Byte 16 → Nat → List Byte → Vector Byte 16
  | v, _, []      => v
  | v, k, b :: bs => writeRegs (v.setIfInBounds k b) (k + 1) bs

/-- `V[0..x]`, ascending (R164). -/
def State.regsUpTo (s : State) (x : Nibble) : List Byte := s.v.toList.take (x.toNat + 1)

/-- Load `V[0], V[1], ...` with the bytes (R165). -/
def State.loadRegs (s : State) (bytes : List Byte) : State :=
  { s with v := writeRegs s.v 0 bytes }

/-- `a mod 2^I_WIDTH`, the low bits a write to `I` keeps (R23). -/
def indexOf (p : Config.Params) (a : Nat) : Word := BitVec.ofNat 16 (a % 2 ^ p.iWidth.bits)

/-- Write `I` (R23). -/
def State.setIndex (s : State) (a : Nat) : State := { s with i := indexOf s.params a }

/-- Write `DT` (R26). -/
def State.setDelay (s : State) (b : Byte) : State := { s with dt := b }

/-- Write `ST` (R27). -/
def State.setSound (s : State) (b : Byte) : State := { s with st := b }

/-- Write the framebuffer and set `Dirty` (R186). -/
def State.present (s : State) (fb : Vector Bool 2048) : State := { s with fb := fb, dirty := true }

/-- Write the key-wait sub-state (R31). -/
def State.setWait (s : State) (active : Bool) (snap : Vector Bool 16) : State :=
  { s with waitActive := active, keySnap := snap }

/-- The random byte of the next draw (R141): free. -/
def State.rand8 (s : State) : Byte := Config.rand8 s.draws

/-- One byte has been drawn: the next draw reads another free value. -/
def State.drawn (s : State) : State := { s with draws := s.draws + 1 }

/-! ### Program counter and stack -/

/-- `pc_next` (R94): the value the step commits. -/
def State.goto (s : State) (t : Word) : State := { s with pc := t }

/-- The default `pc_next`, `(PC + 2) mod 2^16` (R94). -/
def State.advance (s : State) : State := s.goto (s.pc + 2)

/-- The `pc_next` of a skip: `PC + 4` if the condition holds, else `PC + 2` (R94). -/
def State.skipIf (s : State) (cond : Bool) : State := s.goto (if cond then s.pc + 4 else s.pc + 2)

/-- Push a return address (R25, R112). The caller has checked `SP < 16`. -/
def State.push (s : State) (w : Word) : State :=
  if h : s.sp.val < 16 then
    { s with stack := s.stack.set s.sp.val w, sp := ⟨s.sp.val + 1, by omega⟩ }
  else s

/-- `SP - 1` (R110). -/
def State.spDown (s : State) : Fin 17 := ⟨s.sp.val - 1, by omega⟩

/-- The entry a pop reads, `Stack[SP-1]` (R110). -/
def State.top (s : State) : Word := s.stack[s.sp.val - 1]'(by omega)

/-- Pop: only `SP` moves, the entry keeps its value (R25, R110). -/
def State.pop (s : State) : State := { s with sp := s.spDown }

/-! ### Taking a fault -/

/-- Fault entry (R222). `s` is the state at the start of the step, so every write of the step is discarded; `PC` does
not move. `w` is the instruction word, or 0 when the fetch itself faulted; `a` is the address for `MEMORY_BOUNDS` and 0
for the others. -/
def State.raise (s : State) (c : FaultCause) (w : Word) (a : Nat) : State :=
  { s with halted := true, faultCause := c, faultPC := s.pc, faultWord := w, faultAddr := BitVec.ofNat 16 a }

/-- An instruction's own bounds check (R52, R224) on the run of `n` bytes from `a`: the given next state if the run
fits, else `MEMORY_BOUNDS` with the lowest out-of-range address. -/
def State.afterRun (s : State) (w : Word) (a n : Nat) (next : State) : State :=
  if runFits a n then next else s.raise .memoryBounds w (lowestOutside a)

/-! ### Fetch and decode -/

/-- Whether the two bytes at `PC` are inside memory (R92). -/
def State.fetchFits (s : State) : Bool := s.pc.toNat + 1 < Config.memSize

/-- The word at `PC`, big-endian (R54, R92). -/
def State.fetchWord (s : State) : Word :=
  wordOfBytes (s.readByte s.pc.toNat) (s.readByte (s.pc.toNat + 1))

/-- The cycle driver up to dispatch (R90-R93), its checks in the order of R224: halted, fetch bounds, decode.
`.ok i`: the step executes `i`. `.error t`: the step executes nothing and ends in `t`. -/
def State.fetchDecode (s : State) : Except State Instr :=
  if s.halted then .error s
  else if s.fetchFits then
    match decodeWord s.fetchWord with
    | .ok i    => .ok i
    | .error _ => .error (s.raise .illegalInstruction s.fetchWord 0)
  else .error (s.raise .memoryBounds 0 (lowestOutside s.pc.toNat))

/-- Store one instruction word at `PC`, in the byte order the fetch reads (R54). -/
def State.placeWord (s : State) (w : Word) : State :=
  s.storeRun s.pc.toNat [highByte w, lowByte w]

end Sys2Proof.Machine
end

