-- ==== Sys2Proof/Machine/Flags.lean ====
section
/-!
DEFINITION. Every flag computation of the spec. `VF` is the only flag (10_state.md R34); each rule computes the byte
it writes there from the operands as they were at the start of the step (00_scope.md R8).
-/

namespace Sys2Proof.Machine

/-- A flag as the byte written to `VF`. -/
def flagByte (b : Bool) : Byte := if b then 1 else 0

/-- Carry out of bit 7 of `a + b` (R136). -/
def carryFlag (a b : Byte) : Byte := flagByte (a.toNat + b.toNat > 255)

/-- NOT borrow of `a - b`: 0 if `b > a`, else 1 (R137; R139 with the operands exchanged). -/
def noBorrowFlag (a b : Byte) : Byte := if b.toNat > a.toNat then 0 else 1

/-- The bit a right shift by one drops, `a & 1` (R138). -/
def lowBitFlag (a : Byte) : Byte := a &&& 1

/-- The bit a left shift by one drops, `a >> 7` (R140). -/
def highBitFlag (a : Byte) : Byte := a >>> 7

/-- 1 if the exact sum of the pre-add `I` and `V[X]` exceeds 0xFFF (R161). -/
def indexFlag (i : Word) (v : Byte) : Byte := flagByte (i.toNat + v.toNat > 0xFFF)

/-- Write `VF` as a flag and `V[x]` as a result, in the order `VF_DEST_ORDER` says (R136-R140, R143). The two orders
differ only when `x` is `VF` itself. -/
def State.writeFlagged (s : State) (x : Nibble) (flag res : Byte) : State :=
  match s.params.vfDestOrder with
  | .resultLast => (s.setReg vf flag).setReg x res
  | .flagLast   => (s.setReg x res).setReg vf flag

end Sys2Proof.Machine
end

