-- ==== Sys2Proof/Machine/Operands.lean ====
section
/-!
DEFINITION. Every operand form of the spec: zero-extended immediates (30_encoding.md R73), the run `I + k`
(43_index_memory.md R166), key codes (45_input_timers.md R200, R201) and the results computed from byte operands.
-/

namespace Sys2Proof.Machine

/-- `zext_16(NNN)` (R7, R73). -/
def addrOperand (nnn : Addr) : Word := nnn.zeroExtend 16

/-- `(NNN + V[0]) mod 2^16`, not masked to 12 bits (R117, R99). -/
def indexedTarget (nnn : Addr) (v0 : Byte) : Word := nnn.zeroExtend 16 + v0.zeroExtend 16

/-- The first address of a data run, the exact number `I` holds (R52, R166). -/
abbrev State.dataAddr (s : State) : Nat := s.i.toNat

/-- `(a + b) mod 256` (R131, R136). -/
def sumByte (a b : Byte) : Byte := BitVec.ofNat 8 ((a.toNat + b.toNat) % 256)

/-- `(a - b) mod 256` (R137, R139). -/
def diffByte (a b : Byte) : Byte := BitVec.ofNat 8 ((a.toNat + 256 - b.toNat) % 256)

/-- `a >> 1`, a zero enters at bit 7 (R138). -/
def shrByte (a : Byte) : Byte := a >>> 1

/-- `(a << 1) mod 256`, a zero enters at bit 0 (R140). -/
def shlByte (a : Byte) : Byte := a <<< 1

/-- The three decimal digits, hundreds first (R163). -/
def bcdDigits (v : Byte) : List Byte :=
  [BitVec.ofNat 8 (v.toNat / 100), BitVec.ofNat 8 (v.toNat / 10 % 10), BitVec.ofNat 8 (v.toNat % 10)]

/-- The address of a font glyph, `5 * V[X]`, not masked (R162). -/
def glyphAddr (v : Byte) : Nat := 5 * v.toNat

/-- A key code taken from a register: it has a cell of the matrix only up to 15 (R200). -/
def keyOfByte (k : Byte) : Option (Fin 16) := if h : k.toNat < 16 then some ⟨k.toNat, h⟩ else none

/-- The key `EX9E` tests: `V[X]` (R200). -/
def State.skpKey (s : State) (x : Nibble) : Option (Fin 16) := keyOfByte (s.reg x)

/-- The key `EXA1` tests: the raw nibble `X`, or `V[X]` under `dereference` (R201). -/
def State.sknpKey (s : State) (x : Nibble) : Option (Fin 16) :=
  match s.params.exa1Mode with
  | .rawNibble   => some (regIndex x)
  | .dereference => keyOfByte (s.reg x)

/-- The lowest key held now and unheld in the snapshot, if there is one (R202, D10). -/
def newlyHeld (keys snap : Vector Bool 16) : Option (Fin 16) :=
  (List.finRange 16).find? fun k => keys[k] && !snap[k]

end Sys2Proof.Machine
end

