-- ==== Sys2Proof/Machine/Alu.lean ====
section
/-!
DEFINITION. Register loads and the ALU (spec 42_register_alu.md). Operands are read from the state at the start of
the step, then written (R8, D4). None of these faults, and all advance `PC` by 2.
-/

namespace Sys2Proof.Machine

/-- `6XNN` (R130). -/
def execLdImm (x : Nibble) (nn : Byte) (s : State) : Host.Outcome State Fault Refusal :=
  .next (s.setReg x nn).advance

/-- `7XNN` (R131): no flag. -/
def execAddImm (x : Nibble) (nn : Byte) (s : State) : Host.Outcome State Fault Refusal :=
  .next (s.setReg x (sumByte (s.reg x) nn)).advance

/-- `8XY0` (R132). -/
def execLdReg (x y : Nibble) (s : State) : Host.Outcome State Fault Refusal :=
  .next (s.setReg x (s.reg y)).advance

/-- `8XY1` (R133). -/
def execOrReg (x y : Nibble) (s : State) : Host.Outcome State Fault Refusal :=
  .next (s.setReg x (s.reg x ||| s.reg y)).advance

/-- `8XY2` (R134). -/
def execAndReg (x y : Nibble) (s : State) : Host.Outcome State Fault Refusal :=
  .next (s.setReg x (s.reg x &&& s.reg y)).advance

/-- `8XY3` (R135). -/
def execXorReg (x y : Nibble) (s : State) : Host.Outcome State Fault Refusal :=
  .next (s.setReg x (s.reg x ^^^ s.reg y)).advance

/-- `8XY4` (R136, R143). -/
def execAddReg (x y : Nibble) (s : State) : Host.Outcome State Fault Refusal :=
  .next (s.writeFlagged x (carryFlag (s.reg x) (s.reg y)) (sumByte (s.reg x) (s.reg y))).advance

/-- `8XY5` (R137, R143). -/
def execSub (x y : Nibble) (s : State) : Host.Outcome State Fault Refusal :=
  .next (s.writeFlagged x (noBorrowFlag (s.reg x) (s.reg y)) (diffByte (s.reg x) (s.reg y))).advance

/-- `8XY6` (R138, R143). `Y` is encoded and not read. -/
def execShr (x _y : Nibble) (s : State) : Host.Outcome State Fault Refusal :=
  .next (s.writeFlagged x (lowBitFlag (s.reg x)) (shrByte (s.reg x))).advance

/-- `8XY7` (R139, R143). -/
def execSubn (x y : Nibble) (s : State) : Host.Outcome State Fault Refusal :=
  .next (s.writeFlagged x (noBorrowFlag (s.reg y) (s.reg x)) (diffByte (s.reg y) (s.reg x))).advance

/-- `8XYE` (R140, R143). `Y` is encoded and not read. -/
def execShl (x _y : Nibble) (s : State) : Host.Outcome State Fault Refusal :=
  .next (s.writeFlagged x (highBitFlag (s.reg x)) (shlByte (s.reg x))).advance

/-- `CXNN` with the random byte `r` of the step (R141): one byte is drawn, whatever `NN` masks. -/
def randomInto (x : Nibble) (nn r : Byte) (s : State) : State := ((s.setReg x (r &&& nn)).drawn).advance

/-- `CXNN` (R141): the random byte is the free value of the next draw (D26, log 2). -/
def execRnd (x : Nibble) (nn : Byte) (s : State) : Host.Outcome State Fault Refusal :=
  .next (randomInto x nn s.rand8 s)

end Sys2Proof.Machine
end

