-- ==== Sys2Proof/Machine/Control.lean ====
section
/-!
DEFINITION. Control transfer (spec 41_control_flow.md): return, jumps, call, and the skips that compare.
Each meaning starts from the state at the start of the step and answers the state the step commits (R94, R95).
-/

namespace Sys2Proof.Machine

/-- `00EE` (R110): `STACK_UNDERFLOW` on an empty stack, else `PC` becomes the popped value plus the normal advance
(90_conflicts.md C1). -/
def execRet (s : State) : Host.Outcome State Fault Refusal :=
  .next (if s.sp.val = 0 then s.raise .stackUnderflow (encode .ret) 0 else s.pop.goto (s.top + 2))

/-- `1NNN` (R111). -/
def execJp (nnn : Addr) (s : State) : Host.Outcome State Fault Refusal :=
  .next (s.goto (addrOperand nnn))

/-- `2NNN` (R112): `STACK_OVERFLOW` on a full stack, else the call's own address is pushed. -/
def execCall (nnn : Addr) (s : State) : Host.Outcome State Fault Refusal :=
  .next (if s.sp.val = 16 then s.raise .stackOverflow (encode (.call nnn)) 0
    else (s.push s.pc).goto (addrOperand nnn))

/-- `3XNN` (R113). -/
def execSeImm (x : Nibble) (nn : Byte) (s : State) : Host.Outcome State Fault Refusal :=
  .next (s.skipIf (s.reg x == nn))

/-- `4XNN` (R114). -/
def execSneImm (x : Nibble) (nn : Byte) (s : State) : Host.Outcome State Fault Refusal :=
  .next (s.skipIf (s.reg x != nn))

/-- `5XY0` (R115). -/
def execSeReg (x y : Nibble) (s : State) : Host.Outcome State Fault Refusal :=
  .next (s.skipIf (s.reg x == s.reg y))

/-- `9XY0` (R116). -/
def execSneReg (x y : Nibble) (s : State) : Host.Outcome State Fault Refusal :=
  .next (s.skipIf (s.reg x != s.reg y))

/-- `BNNN` (R117). -/
def execJpV0 (nnn : Addr) (s : State) : Host.Outcome State Fault Refusal :=
  .next (s.goto (indexedTarget nnn (s.reg 0)))

end Sys2Proof.Machine
end

