-- ==== Sys2Proof/Machine/Display.lean ====
section
/-!
DEFINITION. The framebuffer instructions (spec 44_display.md).
-/

namespace Sys2Proof.Machine

/-- The index of cell `FB[x, y]`, `x + 64*y` (R28, R180). -/
def cellIndex (px : Fin 64) (py : Fin 32) : Fin 2048 := ⟨px.val + 64 * py.val, by omega⟩

/-- Cell `FB[x, y]` (R8, R180). -/
def State.cell (s : State) (px : Fin 64) (py : Fin 32) : Bool := s.fb[cellIndex px py]

/-- `place(u, v)`: the cell a sprite bit at column `u` and row `v` flips, or none (R183, R184). -/
def place (edge : Config.DrawEdge) (u v : Nat) : Option (Fin 64 × Fin 32) :=
  match edge with
  | .wrap => some (⟨u % 64, by omega⟩, ⟨v % 32, by omega⟩)
  | .clip => if h : u ≤ 63 ∧ v ≤ 31 then some (⟨u, by omega⟩, ⟨v, by omega⟩) else none

/-- A draw in progress: the cells, and whether a set cell has been turned off (R182, R185). -/
structure Canvas where
  fb       : Vector Bool 2048
  collided : Bool
  deriving DecidableEq, Repr

/-- XOR-flip one cell, noting a collision (R182, R185). -/
def flipCell (k : Fin 2048) (cv : Canvas) : Canvas :=
  { fb := cv.fb.set k (!cv.fb[k]), collided := cv.collided || cv.fb[k] }

/-- One sprite bit: column `c` of a row is bit `7 - c` (R6, R182). -/
def drawBit (edge : Config.DrawEdge) (x0 y : Nat) (row : Byte) (cv : Canvas) (c : Nat) : Canvas :=
  if row.getLsbD (7 - c) then
    match place edge (x0 + c) y with
    | some p => flipCell (cellIndex p.1 p.2) cv
    | none   => cv
  else cv

/-- One sprite row: its eight columns from the left (R182). -/
def drawRow (edge : Config.DrawEdge) (x0 y : Nat) (row : Byte) (cv : Canvas) : Canvas :=
  [0, 1, 2, 3, 4, 5, 6, 7].foldl (drawBit edge x0 y row) cv

/-- The rows of a sprite from row `y` on, downwards (R182). -/
def drawRows (edge : Config.DrawEdge) (x0 : Nat) : Nat → List Byte → Canvas → Canvas
  | _, [], cv          => cv
  | y, row :: rows, cv => drawRows edge x0 (y + 1) rows (drawRow edge x0 y row cv)

/-- `00E0` (R181). -/
def execCls (s : State) : Host.Outcome State Fault Refusal :=
  .next (s.present (Vector.replicate 2048 false)).advance

/-- The sprite of `DXYN` on the framebuffer, with nothing collided at first (R182). Origin, `I` and `N` are read
before `VF` is written (D5). -/
def State.sprite (s : State) (x y n : Nibble) : Canvas :=
  drawRows s.params.drawEdge (s.reg x).toNat (s.reg y).toNat (s.loadRun s.dataAddr n.toNat)
    { fb := s.fb, collided := false }

/-- `DXYN` (R182-R186). -/
def execDrw (x y n : Nibble) (s : State) : Host.Outcome State Fault Refusal :=
  .next (s.afterRun (encode (.drw x y n)) s.dataAddr n.toNat
    (((s.present (s.sprite x y n).fb).setReg vf (flagByte (s.sprite x y n).collided)).advance))

end Sys2Proof.Machine
end

