-- ==== Sys2Proof/Machine/Index.lean ====
section
/-!
DEFINITION. The address register and memory transfers (spec 43_index_memory.md). All advance `PC` by 2; `I` is never
changed by an access (R166, D25); a run that does not fit raises `MEMORY_BOUNDS` before anything is written.
-/

namespace Sys2Proof.Machine

/-- `ANNN` (R160). -/
def execLdI (nnn : Addr) (s : State) : Host.Outcome State Fault Refusal :=
  .next (s.setIndex nnn.toNat).advance

/-- `FX1E` (R161): the flag is computed from the exact sum, and `VF` is written once. -/
def execAddI (x : Nibble) (s : State) : Host.Outcome State Fault Refusal :=
  .next (((s.setIndex (s.i.toNat + (s.reg x).toNat)).setReg vf (indexFlag s.i (s.reg x))).advance)

/-- `FX29` (R162). -/
def execLdF (x : Nibble) (s : State) : Host.Outcome State Fault Refusal :=
  .next (s.setIndex (glyphAddr (s.reg x))).advance

/-- `FX33` (R163). -/
def execLdB (x : Nibble) (s : State) : Host.Outcome State Fault Refusal :=
  .next (s.afterRun (encode (.ldB x)) s.dataAddr 3
    (s.storeRun s.dataAddr (bcdDigits (s.reg x))).advance)

/-- `FX55` (R164). -/
def execLdMemStore (x : Nibble) (s : State) : Host.Outcome State Fault Refusal :=
  .next (s.afterRun (encode (.ldMemStore x)) s.dataAddr (x.toNat + 1)
    (s.storeRun s.dataAddr (s.regsUpTo x)).advance)

/-- `FX65` (R165). -/
def execLdMemLoad (x : Nibble) (s : State) : Host.Outcome State Fault Refusal :=
  .next (s.afterRun (encode (.ldMemLoad x)) s.dataAddr (x.toNat + 1)
    (s.loadRegs (s.loadRun s.dataAddr (x.toNat + 1))).advance)

end Sys2Proof.Machine
end

