-- ==== Sys2Proof/Machine/Input.lean ====
section
/-!
DEFINITION. Input and timer instructions (spec 45_input_timers.md).
-/

namespace Sys2Proof.Machine

/-- A key skip: `KEY_INDEX` if the operand names no key, else skip if the key's level is `level` (R200, R201). -/
def State.keySkip (s : State) (w : Word) (k : Option (Fin 16)) (level : Bool) : State :=
  match k with
  | some j => s.skipIf (s.key[j] == level)
  | none   => s.raise .keyIndex w 0

/-- `EX9E` (R200). -/
def execSkp (x : Nibble) (s : State) : Host.Outcome State Fault Refusal :=
  .next (s.keySkip (encode (.skp x)) (s.skpKey x) true)

/-- `EXA1` (R201). -/
def execSknp (x : Nibble) (s : State) : Host.Outcome State Fault Refusal :=
  .next (s.keySkip (encode (.sknp x)) (s.sknpKey x) false)

/-- `FX07` (R203). -/
def execLdVxDt (x : Nibble) (s : State) : Host.Outcome State Fault Refusal :=
  .next (s.setReg x s.dt).advance

/-- `FX0A` (R202, R96): enter the wait, keep waiting, or complete with the lowest newly held key. -/
def execLdVxK (x : Nibble) (s : State) : Host.Outcome State Fault Refusal :=
  .next (if s.waitActive then
      match newlyHeld s.key s.keySnap with
      | none   => s.setWait true s.key
      | some k => ((s.setReg x (BitVec.ofNat 8 k.val)).setWait false s.key).advance
    else s.setWait true s.key)

/-- `FX15` (R204). -/
def execLdDtVx (x : Nibble) (s : State) : Host.Outcome State Fault Refusal :=
  .next (s.setDelay (s.reg x)).advance

/-- `FX18` (R205). -/
def execLdStVx (x : Nibble) (s : State) : Host.Outcome State Fault Refusal :=
  .next (s.setSound (s.reg x)).advance

end Sys2Proof.Machine
end

