-- ==== Sys2Proof/Machine/Step.lean ====
section
/-!
DEFINITION. The cycle driver's `step()` (spec 40_cycle_driver.md R90-R99), and how the host places one instruction.
-/

namespace Sys2Proof.Machine

/-- One instruction cycle (R90): fetch and decode (`State.fetchDecode`), then execute and commit (`exec`). The random
byte of the step is the free value of the next draw; `stepWith` (Machine/HostPort.lean) takes it as an argument. -/
def step (s : State) : Host.Outcome State Fault Refusal :=
  match s.fetchDecode with
  | .ok i    => exec i s
  | .error t => .next t

/-- `s` with the instruction whose bits are `w` (numbered as the opcode table numbers them) stored at `PC`, where
`step` fetches next. It changes memory only. The step then runs it if `s` is not halted and `PC` is below 0xFFF, as
after reset. -/
def State.withFetchWord (s : State) (nbits w : Nat) : State := s.placeWord (tableWord nbits w)

end Sys2Proof.Machine
end

