-- ==== Sys2Proof/WellFormed.lean ====
section
/-!
DEFINITION. The checks on what comes from outside the core.

An instruction needs no check of its own: every operand of `Instr` is a bit vector of exactly the width its field has
in the encoding (30_encoding.md R71, R72), no field value is reserved (R77), and so every term of `Instr` is
well-formed and is the meaning of exactly one word. What can be ill-formed is what the host hands over: a program
image and a key code (70_reset_and_hazards.md R262, R267).
-/

namespace Sys2Proof.WellFormed

/-- A program image the load interface takes: at most 3584 bytes (R262, R263). -/
def imageFits (image : List Byte) : Bool := image.length ≤ Config.maxImage

/-- A key code the input port takes: `0x0` to `0xF` (R244; R267: the host never passes `k > 15`). -/
def keyCodeFits (k : Byte) : Bool := k.toNat ≤ 15

end Sys2Proof.WellFormed
end

