-- ==== Sys2Proof/Machine/HostPort.lean ====
section
/-!
DEFINITION. The eight host operations (spec 60_exceptions.md R230-R246) and the host's duties and liberties over them
(70_reset_and_hazards.md R260-R267).
-/

namespace Sys2Proof.Machine

/-! ### Step with its input and outputs -/

/-- The status a step returns (R90, R246). -/
inductive StepStatus where
  | executed
  | waiting
  | faulted (cause : FaultCause)
  deriving DecidableEq, Repr

/-- `step(rand8)` with the random byte as its argument (R90, R97): only `CXNN` reads it. -/
def stepWith (r : Byte) (s : State) : Host.Outcome State Fault Refusal :=
  match s.fetchDecode with
  | .ok (.rnd x nn) => .next (randomInto x nn r s)
  | .ok i           => exec i s
  | .error t        => .next t

/-- The status, read off the state the step ends in (R90, R91, R95, R222). -/
def State.status (t : State) : StepStatus :=
  if t.halted then .faulted t.faultCause
  else if t.waitActive then .waiting
  else .executed

/-- Whether an instruction is one of the two that draw (R95, R186). -/
def isDrawing (i : Instr) : Bool :=
  match i with
  | .cls | .drw _ _ _ => true
  | _ => false

/-- `drew`: the step from `s` to `t` executed `00E0` or `DXYN` and raised no fault (R95, D19). -/
def drewOf (s t : State) : Bool :=
  match s.fetchDecode with
  | .ok i    => isDrawing i && !t.halted
  | .error _ => false

/-! ### The other operations -/

/-- `reset()` (R260): every piece of the spec's state at its reset value. The parameters are fixed for the machine.
The draw counter, which is the model's own, is not set back, so that the bytes drawn after a reset are as free as
those before it (log 2). -/
def hostReset (s : State) : State := { State.resetWith s.params with draws := s.draws }

/-- What `load` returns (R262). -/
inductive LoadResult where
  | ok
  | loadTooLarge
  deriving DecidableEq, Repr

/-- `load(bytes)` (R262, R263): an image that is too large writes nothing. -/
def hostLoad (image : List Byte) (s : State) : State × LoadResult :=
  if WellFormed.imageFits image then (s.storeRun Config.programBase image, .ok) else (s, .loadTooLarge)

/-- One timer's decrement toward 0 (R231, R232). -/
def countDown (b : Byte) : Byte := if b = 0 then 0 else b - 1

/-- `tick()` (R230): while halted nothing changes and no beep is returned; the beep is the edge of `ST` from 2 to 1
(R233). -/
def hostTick (s : State) : State × Bool :=
  if s.halted then (s, false)
  else ({ s with dt := countDown s.dt, st := countDown s.st }, s.st == 2)

/-- `set_key(k, held)` (R244). -/
def hostSetKey (k : Fin 16) (held : Bool) (s : State) : State := { s with key := s.key.set k held }

/-- `read_fb()` (R242): the 2048 cells in index order, and `Dirty`. -/
def hostReadFb (s : State) : Vector Bool 2048 × Bool := (s.fb, s.dirty)

/-- `clear_dirty()` (R243). -/
def hostClearDirty (s : State) : State := { s with dirty := false }

/-- What `read_fault()` returns (R32, R240). -/
structure FaultRecord where
  halted     : Bool
  faultCause : BitVec 3
  faultPC    : Word
  faultWord  : Word
  faultAddr  : Word
  deriving DecidableEq, Repr

/-- `read_fault()` (R32, R240). -/
def hostReadFault (s : State) : FaultRecord where
  halted     := s.halted
  faultCause := s.faultCause.code
  faultPC    := s.faultPC
  faultWord  := s.faultWord
  faultAddr  := s.faultAddr

/-! ### The host's moves -/

/-- One host operation with its inputs (R240). -/
inductive HostOp where
  | reset
  | load (image : List Byte)
  | step (rand8 : Byte)
  | tick
  | setKey (k : Byte) (held : Bool)
  | readFb
  | clearDirty
  | readFault
  deriving DecidableEq, Repr

/-- What an operation returns (R240). -/
inductive Reply where
  | nothing
  | loaded (result : LoadResult)
  | stepped (status : StepStatus) (drew : Bool)
  | beeped (beep : Bool)
  | frame (cells : Vector Bool 2048) (dirty : Bool)
  | record (fault : FaultRecord)
  deriving DecidableEq, Repr

/-- Where the host stands in the boot sequence (R265, R267). It is the host's state, not the core's. -/
inductive Phase where
  /-- No reset yet: the host calls `reset` before anything else. -/
  | unreset
  /-- Between a reset and the first step: `load` may be called. -/
  | loadable
  /-- A load was refused since the reset: the host does not step until the next reset (R263). -/
  | loadRefused
  /-- After the first step since the reset. -/
  | running
  deriving DecidableEq, Repr

/-- The core as the host drives it. -/
structure Session where
  core  : State
  phase : Phase
  deriving DecidableEq, Repr

/-- `load` as a move (R262, R267): only before the first step. A refused load bars the step until the next reset. -/
def Session.moveLoad (x : Session) (image : List Byte) : Option (Session × Reply) :=
  match x.phase with
  | .loadable =>
    match hostLoad image x.core with
    | (t, .ok)           => some ({ core := t, phase := .loadable }, .loaded .ok)
    | (t, .loadTooLarge) => some ({ core := t, phase := .loadRefused }, .loaded .loadTooLarge)
  | .loadRefused =>
    match hostLoad image x.core with
    | (t, r) => some ({ core := t, phase := .loadRefused }, .loaded r)
  | .unreset | .running => none

/-- `step` as a move (R90, R267): never before a reset, never after a refused load. -/
def Session.moveStep (x : Session) (r : Byte) : Option (Session × Reply) :=
  match x.phase with
  | .loadable | .running =>
    match stepWith r x.core with
    | .next t    => some ({ core := t, phase := .running }, .stepped t.status (drewOf x.core t))
    | .fault _   => none
    | .refused _ => none
  | .unreset | .loadRefused => none

/-- An operation the host may call at any point after the first reset (R267). -/
def Session.afterReset (x : Session) (r : State × Reply) : Option (Session × Reply) :=
  match x.phase with
  | .unreset => none
  | .loadable | .loadRefused | .running => some ({ x with core := r.1 }, r.2)

/-- One move of the host: the session after it and the reply, or `none` where the host never does it (R267). -/
def Session.move (op : HostOp) (x : Session) : Option (Session × Reply) :=
  match op with
  | .reset         => some ({ core := hostReset x.core, phase := .loadable }, .nothing)
  | .load image    => x.moveLoad image
  | .step r        => x.moveStep r
  | .tick          => x.afterReset ((hostTick x.core).1, .beeped (hostTick x.core).2)
  | .setKey k held =>
    if h : k.toNat < 16 then x.afterReset (hostSetKey ⟨k.toNat, h⟩ held x.core, .nothing) else none
  | .readFb        => x.afterReset (x.core, .frame (hostReadFb x.core).1 (hostReadFb x.core).2)
  | .clearDirty    => x.afterReset (hostClearDirty x.core, .nothing)
  | .readFault     => x.afterReset (x.core, .record (hostReadFault x.core))

/-- A run of host moves, each allowed where it is made; the replies are in order. -/
def Session.run : List HostOp → Session → Option (Session × List Reply)
  | [], x        => some (x, [])
  | op :: ops, x =>
    match x.move op with
    | none        => none
    | some (y, r) =>
      match Session.run ops y with
      | none         => none
      | some (z, rs) => some (z, r :: rs)

end Sys2Proof.Machine
end

