-- ==== Sys2Proof/Safety.lean ====
section
/-!
DEFINITION. What counts as a safe run, and the invariants of the core, in the terms the claims use.
-/

namespace Sys2Proof.Safety

open Sys2Proof.Machine

/-- The cycle loop that a fatal fault halts (60_exceptions.md R221): it stops at a halted core and runs one `step`
otherwise. -/
def cycleLoop (s : State) : Host.Outcome State Fault Refusal :=
  if s.halted then .fault (.halted s.faultCause) else step s

/-- The cycle loop goes on for `n` steps: none of them, nor the state it starts in, is halted. -/
def runsFor : Nat → State → Bool
  | 0, s     => !s.halted
  | n + 1, s =>
    match cycleLoop s with
    | .next t    => runsFor n t
    | .fault _   => false
    | .refused _ => false

/-- `I` holds a value of its width (10_state.md R23). -/
abbrev indexFits (s : State) : Prop := s.i.toNat < 2 ^ s.params.iWidth.bits

/-- The fault record is zero until a fault, names a cause after one, and holds an address exactly for
`MEMORY_BOUNDS` (R32, R220, R222). -/
abbrev recordSound (s : State) : Prop :=
  (s.halted = false ↔ s.faultCause = .noFault) ∧
  (s.halted = false → s.faultPC = 0 ∧ s.faultWord = 0) ∧
  (s.faultCause ≠ .memoryBounds → s.faultAddr = 0) ∧
  (s.faultCause = .memoryBounds → 0x1000 ≤ s.faultAddr.toNat)

/-- Whether the instruction the next step fetches is `FX0A`. -/
def atKeyWait (s : State) : Bool :=
  s.fetchFits &&
    match decodeWord s.fetchWord with
    | .ok (.ldVxK _) => true
    | _              => false

/-- `WaitActive` is 0 whenever the instruction at `PC` is not `FX0A` (R31), and a waiting core is not halted. -/
abbrev waitSound (s : State) : Prop :=
  s.waitActive = true → s.halted = false ∧ atKeyWait s = true

/-- No `PC` exceeds 0x10FE, and no return address exceeds 0xFFE (40_cycle_driver.md R99). -/
abbrev addressesBounded (s : State) : Prop :=
  s.pc.toNat ≤ 0x10FE ∧ ∀ k : Fin 16, s.stack[k].toNat ≤ 0xFFE

/-- The invariant of the core: memory in its canonical form inside 4096 bytes (R50), `I` in its width, a sound fault
record, a sound key wait, and bounded addresses. -/
abbrev CoreInv (s : State) : Prop :=
  Memory.wf s.params s.mem ∧ indexFits s ∧ recordSound s ∧ waitSound s ∧ addressesBounded s

/-- The invariant of a session: the core's own, and no key wait before the first step since the reset. -/
abbrev SessionInv (x : Session) : Prop :=
  CoreInv x.core ∧ ((x.phase = .loadable ∨ x.phase = .loadRefused) → x.core.waitActive = false)

end Sys2Proof.Safety
end

