-- ==== Sys2Proof/Certificates/Slice0/Obligations.lean ====
section
/-!
DEFINITION. The statements for the provers. Each docstring names the rules of spec/ the statement formalises. A frame is
written as an equation between whole states: `t = { s with v := t.v, pc := s.pc + 2 }` says that every other piece of
state, every byte of memory among them, is as before. Instruction results are given as numbers, by the pseudocode of the
rules, not by the model's own functions.
-/

namespace Sys2Proof.Claims

open Sys2Proof Sys2Proof.Machine

/-- Every piece of the spec's state is at the value R36 gives, for the state's own `FONT`. -/
def AtReset (t : State) : Prop :=
  (∀ (a : Nat) (h : a < 80), t.readByte a = t.params.font[a]) ∧ (∀ a, 80 ≤ a → t.readByte a = 0) ∧
  (∀ k, t.reg k = 0) ∧ t.i = 0 ∧ t.pc = 0x200 ∧ (∀ k : Fin 16, t.stack[k] = 0) ∧ t.sp.val = 0 ∧
  t.dt = 0 ∧ t.st = 0 ∧ (∀ px py, t.cell px py = false) ∧ t.dirty = false ∧
  (∀ k : Fin 16, t.key[k] = false) ∧ t.waitActive = false ∧ (∀ k : Fin 16, t.keySnap[k] = false) ∧
  t.halted = false ∧ t.faultCause.code = 0 ∧ t.faultPC = 0 ∧ t.faultWord = 0 ∧ t.faultAddr = 0

/-- Every byte of memory reads as before. -/
def SameBytes (s t : State) : Prop := ∀ a, t.readByte a = s.readByte a

/-- Every byte outside the `n` bytes from address `a` reads as before. -/
def SameBytesOutside (s t : State) (a n : Nat) : Prop :=
  ∀ b, (b < a ∨ a + n ≤ b) → t.readByte b = s.readByte b

/-- Only the destination register and `PC` change; `PC` moves on by 2, and `V[x]` holds the number `val` (R94). -/
def WritesOnly (s t : State) (x : Nibble) (val : Nat) : Prop :=
  t = { s with v := t.v, pc := s.pc + 2 } ∧ SameBytes s t ∧
  ∀ k, (t.reg k).toNat = if k = x then val else (s.reg k).toNat

/-- Only `VF`, the destination register and `PC` change; `VF_DEST_ORDER` says which write to `VF` is final when the
destination is `VF` (R8, R143). -/
def WritesFlagged (s t : State) (x : Nibble) (flag res : Nat) : Prop :=
  t = { s with v := t.v, pc := s.pc + 2 } ∧ SameBytes s t ∧
  ∀ k, (t.reg k).toNat =
    if k = 0xF ∧ (x ≠ 0xF ∨ s.params.vfDestOrder = .flagLast) then flag
    else if k = x then res
    else (s.reg k).toNat

/-- Only `PC` changes. -/
def JumpsTo (i : Instr) (s : State) (target : Nat) : Prop :=
  ∃ t, exec i s = .next t ∧ t = { s with pc := t.pc } ∧ SameBytes s t ∧ t.pc.toNat = target % 65536

/-- The state after the fault entry of R222. -/
def Faulted (s : State) (c : FaultCause) (w a : Word) : State :=
  { s with halted := true, faultCause := c, faultPC := s.pc, faultWord := w, faultAddr := a }

/-- `max(i, 0x1000)` for the `I` of the state (R32). -/
def outsideOf (s : State) : Word := BitVec.ofNat 16 (max s.i.toNat 0x1000)

/-- A sprite bit at column `u`, row `v` lands on cell `(px, py)` (R183, R184). -/
def Lands : Config.DrawEdge → Nat → Nat → Fin 64 → Fin 32 → Prop
  | .wrap, u, v, px, py => u % 64 = px.val ∧ v % 32 = py.val
  | .clip, u, v, px, py => u = px.val ∧ v = py.val

/-- The sprite of `DXYN` has a set bit that lands on cell `(px, py)` (R182; column `c` is bit `7 - c`, R6). -/
def Covers (s : State) (x y n : Nibble) (px : Fin 64) (py : Fin 32) : Prop :=
  ∃ r c : Nat, r < n.toNat ∧ c < 8 ∧ (s.readByte (s.i.toNat + r)).getLsbD (7 - c) = true ∧
    Lands s.params.drawEdge ((s.reg x).toNat + c) ((s.reg y).toNat + r) px py

/-- Some set cell is turned off by the sprite of `DXYN` (R185). -/
def Collides (s : State) (x y n : Nibble) : Prop := ∃ px py, s.cell px py = true ∧ Covers s x y n px py

/-- The sprite's bytes are inside memory, or there is none (R182). -/
def SpriteFits (s : State) (n : Nibble) : Prop := n = 0 ∨ s.i.toNat + n.toNat ≤ 4096

/-- After the instruction `VF` holds the number `val`. -/
def VfAfter (i : Instr) (s : State) (val : Nat) : Prop := ∃ t, exec i s = .next t ∧ (t.reg 0xF).toNat = val

/-- The result or the flag, by `VF_DEST_ORDER` (R143). -/
def byOrder (s : State) (res flag : Nat) : Nat :=
  match s.params.vfDestOrder with
  | .resultLast => res
  | .flagLast   => flag

/-- The state after `n` ticks. -/
def ticks : Nat → State → State
  | 0, s     => s
  | n + 1, s => ticks n (hostTick s).1

/-- How many of the next `n` ticks return a beep. -/
def beeps : Nat → State → Nat
  | 0, _     => 0
  | n + 1, s => (if (hostTick s).2 then 1 else 0) + beeps n (hostTick s).1

/-- The registers an instruction may write, by the matrix of R37. -/
def writesReg (i : Instr) (k : Nibble) : Bool :=
  match i with
  | .ldImm x _ | .addImm x _ | .ldReg x _ | .orReg x _ | .andReg x _ | .xorReg x _ | .rnd x _ | .ldVxDt x
  | .ldVxK x => k == x
  | .addReg x _ | .sub x _ | .shr x _ | .subn x _ | .shl x _ => k == x || k == 0xF
  | .drw _ _ _ | .addI _ => k == 0xF
  | .ldMemLoad x => k.toNat ≤ x.toNat
  | _ => false

/-- The instructions that write `I` (R23). -/
def writesIndex (i : Instr) : Bool :=
  match i with
  | .ldI _ | .addI _ | .ldF _ => true
  | _ => false

/-- The instructions that touch the stack (R25). -/
def usesStack (i : Instr) : Bool :=
  match i with
  | .call _ | .ret => true
  | _ => false

/-- The instructions that store to memory (R53). -/
def storesBytes (i : Instr) : Bool :=
  match i with
  | .ldB _ | .ldMemStore _ => true
  | _ => false

/-- The instructions whose `pc_next` is not the plain `PC + 2` (R94). -/
def setsPc (i : Instr) : Bool :=
  match i with
  | .jp _ | .call _ | .jpV0 _ | .ret | .seImm _ _ | .sneImm _ _ | .seReg _ _ | .sneReg _ _ | .skp _ | .sknp _
  | .ldVxK _ => true
  | _ => false

end Sys2Proof.Claims

open Sys2Proof Sys2Proof.Machine Sys2Proof.Safety Sys2Proof.Claims

/-! ### Reset, the invariant, the step -/

/-- R36 and R260: every piece of state after reset, whatever it was before, for every setting of the parameters, which a
reset keeps (R5); the host may reset at any time. -/
def Obligations.ResetLeavesStatedValues : Prop :=
  AtReset State.reset ∧ (∀ p, AtReset (State.resetWith p) ∧ (State.resetWith p).params = p) ∧
  (∀ s, AtReset (hostReset s) ∧ (hostReset s).params = s.params) ∧
  (∀ x : Session, x.move .reset = some ({ core := hostReset x.core, phase := .loadable }, .nothing))

/-- The invariant `CoreInv` holds after reset, and `SessionInv` after the host's reset (R36, R260). -/
def Obligations.ResetEstablishesInv : Prop :=
  (∀ p, CoreInv (State.resetWith p)) ∧ CoreInv State.reset ∧
  ∀ x : Session, ∃ y, x.move .reset = some (y, .nothing) ∧ SessionInv y

/-- Every step keeps the invariant: canonical memory inside 4096 bytes (R50), `I` in its width (R23), a sound fault
record (R32), a sound key wait (R31, the spec's own inference "`WaitActive` is 0 whenever the instruction at `PC` is not
`FX0A`"), and bounded addresses (R99, the spec's own inference "No reachable `pc_next` exceeds 0x10FE"). -/
def Obligations.StepKeepsInv : Prop :=
  ∀ s t, CoreInv s → step s = .next t → CoreInv t

/-- Every move of the host keeps the invariant, in any order of operations (R241, R267). -/
def Obligations.HostMovesKeepInv : Prop :=
  ∀ op x y r, SessionInv x → Session.move op x = some (y, r) → SessionInv y

/-- Every step answers a next state: no state stops the model (R90). -/
def Obligations.StepAlwaysAnswersNext : Prop :=
  ∀ s, ∃ t, step s = .next t

/-- A step runs the decoded instruction: fetch of two bytes, big-endian, decode, execute; nothing stands around `exec`
(R90, R54, R93). -/
def Obligations.StepRunsDecodedInstruction : Prop :=
  ∀ s i, s.halted = false → s.pc.toNat + 1 < 4096 →
    decodeWord (s.readByte s.pc.toNat ++ s.readByte (s.pc.toNat + 1)) = .ok i → step s = exec i s

/-- R92: the fetch bounds check, and the word the fetch reads. -/
def Obligations.FetchIsBoundsChecked : Prop :=
  ∀ s, s.halted = false →
    (4096 ≤ s.pc.toNat + 1 →
      step s = .next (Faulted s .memoryBounds 0 (BitVec.ofNat 16 (max s.pc.toNat 0x1000)))) ∧
    (s.pc.toNat + 1 < 4096 → ∀ i,
      decodeWord (s.readByte s.pc.toNat ++ s.readByte (s.pc.toNat + 1)) = .ok i → step s = exec i s)

/-- A fetched word that is no instruction raises `ILLEGAL_INSTRUCTION` with the word recorded (R93, R76). -/
def Obligations.IllegalWordFaults : Prop :=
  ∀ s w e, s.halted = false → s.pc.toNat + 1 < 4096 →
    w = s.readByte s.pc.toNat ++ s.readByte (s.pc.toNat + 1) → decodeWord w = .error e →
    step s = .next (Faulted s .illegalInstruction w 0)

/-- R222: fault entry. Every write of the faulting step is discarded, and the record holds the cause, the address of
the instruction, its word (0 when the fetch faulted) and an address for `MEMORY_BOUNDS` only. -/
def Obligations.FaultEntryIsPrecise : Prop :=
  ∀ s t, s.halted = false → step s = .next t → t.halted = true →
    ∃ c w a, t = Faulted s c w a ∧ c ≠ .noFault ∧
      (c ≠ .memoryBounds → a = 0) ∧ (c = .memoryBounds → 0x1000 ≤ a.toNat) ∧
      (4096 ≤ s.pc.toNat + 1 → w = 0) ∧
      (s.pc.toNat + 1 < 4096 → w = s.readByte s.pc.toNat ++ s.readByte (s.pc.toNat + 1)) ∧
      t.status = .faulted c ∧ drewOf s t = false

/-- Which instruction raises which fault, and when (R220: "Every instruction not named in the raised by column raises
no fault"). -/
def Obligations.OnlyListedInstructionsFault : Prop :=
  ∀ i s t, s.halted = false → exec i s = .next t → t.halted = true →
    match i with
    | .call _       => t.faultCause = .stackOverflow ∧ s.sp.val = 16
    | .ret          => t.faultCause = .stackUnderflow ∧ s.sp.val = 0
    | .drw _ _ n    => t.faultCause = .memoryBounds ∧ 4096 < s.i.toNat + n.toNat ∧ n ≠ 0
    | .ldB _        => t.faultCause = .memoryBounds ∧ 4096 < s.i.toNat + 3
    | .ldMemStore x => t.faultCause = .memoryBounds ∧ 4096 < s.i.toNat + (x.toNat + 1)
    | .ldMemLoad x  => t.faultCause = .memoryBounds ∧ 4096 < s.i.toNat + (x.toNat + 1)
    | .skp x        => t.faultCause = .keyIndex ∧ 15 < (s.reg x).toNat
    | .sknp x       => t.faultCause = .keyIndex ∧ 15 < (s.reg x).toNat ∧ s.params.exa1Mode = .dereference
    | _             => False

/-- R91 and R223: a halted core. Steps and ticks change nothing, the other host operations still work, and only a reset
leaves the halted state. -/
def Obligations.HaltedCoreStaysUntilReset : Prop :=
  (∀ s, s.halted = true →
    step s = .next s ∧ (∀ r, stepWith r s = .next s) ∧ s.status = .faulted s.faultCause ∧ hostTick s = (s, false)) ∧
  (∀ x : Session, x.core.halted = true → x.phase ≠ .unreset →
    (∀ (k : Byte) (hk : k.toNat < 16) (held : Bool), x.move (.setKey k held) =
      some ({ x with core := { x.core with key := x.core.key.set k.toNat held } }, .nothing)) ∧
    x.move .readFb = some (x, .frame x.core.fb x.core.dirty) ∧
    x.move .clearDirty = some ({ x with core := { x.core with dirty := false } }, .nothing) ∧
    (∃ f, x.move .readFault = some (x, .record f) ∧ f.halted = true ∧ f.faultCause = x.core.faultCause.code ∧
      f.faultPC = x.core.faultPC ∧ f.faultWord = x.core.faultWord ∧ f.faultAddr = x.core.faultAddr)) ∧
  (∀ op (x y : Session) r, x.core.halted = true → op ≠ .reset → x.move op = some (y, r) → y.core.halted = true) ∧
  (∀ x : Session, ∃ y, x.move .reset = some (y, .nothing) ∧ y.core.halted = false)

/-- A step depends on `rand8` only when it executes `CXNN` (R90: "a free 8-bit value that only `CXNN` reads"; R97). -/
def Obligations.OnlyRndReadsRandomByte : Prop :=
  ∀ s r r', (∀ x nn, s.fetchDecode ≠ .ok (.rnd x nn)) → stepWith r s = stepWith r' s ∧ stepWith r s = step s

/-- R246: the status and `drew` that a step returns, and that the host's step is `stepWith` and returns them (R90,
R240). -/
def Obligations.StepReportsStatusAndDrew : Prop :=
  (∀ r (x : Session) t, (x.phase = .loadable ∨ x.phase = .running) → stepWith r x.core = .next t →
    x.move (.step r) = some ({ core := t, phase := .running }, .stepped t.status (drewOf x.core t))) ∧
  (∀ s t r, stepWith r s = .next t →
    (t.halted = true → t.status = .faulted t.faultCause ∧ drewOf s t = false) ∧
    (t.halted = false → t.waitActive = true → t.status = .waiting) ∧
    (t.halted = false → t.waitActive = false → t.status = .executed) ∧
    (t.halted = false → ∃ i, s.fetchDecode = .ok i ∧
      (drewOf s t = true ↔ (i = .cls ∨ ∃ x y n, i = .drw x y n))))

/-! ### Encoding -/

/-- Decode and encode agree: decoding the word of any instruction gives the instruction back, and the bytes after it
are left over (R70, R71, R72). -/
def Obligations.DecodeOfEncodeReturnsInstruction : Prop :=
  ∀ i rest, decodeWord (encode i) = .ok i ∧ decodeBytes (encodeBytes i ++ rest) = .ok (i, rest)

/-- The other direction: a word that decodes is the word of the instruction it decodes to, so no bit of it is dropped
(R75). -/
def Obligations.EncodeOfDecodeReturnsWord : Prop :=
  ∀ w i, decodeWord w = .ok i → encode i = w

/-- R75: a word is an instruction only if it matches a row of the opcode table; the row is the instruction's own, no
other row matches the word (R74, the spec's own inference from the masks), and a word that matches no row is the verdict
`illegal` (R76, R93). -/
def Obligations.DecoderFollowsOpcodeTable : Prop :=
  (∀ w i, decodeWord w = .ok i → i.row ∈ opcodeTable ∧ w &&& i.row.mask = i.row.pattern) ∧
  (∀ w r r', r ∈ opcodeTable → r' ∈ opcodeTable → w &&& r.mask = r.pattern → w &&& r'.mask = r'.pattern → r = r') ∧
  (∀ w, (∀ r ∈ opcodeTable, w &&& r.mask ≠ r.pattern) ↔ decodeWord w = .error (.illegal w))

/-- The illegal words by class, the table of R76 (its counts left out). -/
def Obligations.IllegalWordsAreThoseListed : Prop :=
  ∀ w : Word, decodeWord w = .error (.illegal w) ↔
    (w.toNat / 4096 = 0 ∧ w ≠ 0x00E0 ∧ w ≠ 0x00EE) ∨
    (w.toNat / 4096 = 5 ∧ w.toNat % 16 ≠ 0) ∨
    (w.toNat / 4096 = 8 ∧ w.toNat % 16 ∈ [8, 9, 10, 11, 12, 13, 15]) ∨
    (w.toNat / 4096 = 9 ∧ w.toNat % 16 ≠ 0) ∨
    (w.toNat / 4096 = 14 ∧ w.toNat % 256 ∉ [0x9E, 0xA1]) ∨
    (w.toNat / 4096 = 15 ∧ w.toNat % 256 ∉ [0x07, 0x0A, 0x15, 0x18, 0x1E, 0x29, 0x33, 0x55, 0x65])

/-- A word of each family, written out from the spec's encoding, decodes to the instruction it stands for (R71,
R72). -/
def Obligations.SampleWordsDecode : Prop :=
  decodeWord 0x00EE = .ok .ret ∧ decodeWord 0x2210 = .ok (.call 0x210) ∧
  decodeWord 0x4311 = .ok (.sneImm 3 0x11) ∧ decodeWord 0x81F5 = .ok (.sub 1 15) ∧
  decodeWord 0x8FFE = .ok (.shl 15 15) ∧ decodeWord 0xC30F = .ok (.rnd 3 0x0F) ∧
  decodeWord 0xF265 = .ok (.ldMemLoad 2) ∧ decodeWord 0xD12F = .ok (.drw 1 2 15) ∧
  decodeWord 0xE3A1 = .ok (.sknp 3) ∧ decodeWord 0xF30A = .ok (.ldVxK 3) ∧
  decodeWord 0x5121 = .error (.illegal 0x5121) ∧ decodeWord 0x812F = .error (.illegal 0x812F)

/-! ### Control transfer (41_control_flow.md) -/

/-- R110: `00EE`. -/
def Obligations.ReturnPopsAndAdvances : Prop :=
  decodeWord 0x00EE = .ok .ret ∧
  (∀ s, s.sp.val = 0 → exec .ret s = .next (Faulted s .stackUnderflow 0x00EE 0)) ∧
  (∀ s (h : 0 < s.sp.val), ∃ t, exec .ret s = .next t ∧ t.sp.val = s.sp.val - 1 ∧
    t.pc = s.stack[s.sp.val - 1] + 2 ∧ t = { s with sp := t.sp, pc := t.pc } ∧ SameBytes s t)

/-- R111 and R117: `1NNN` and `BNNN`. -/
def Obligations.JumpsSetPc : Prop :=
  (∀ nnn : Addr, decodeWord (0x1#4 ++ nnn) = .ok (.jp nnn) ∧ decodeWord (0xB#4 ++ nnn) = .ok (.jpV0 nnn)) ∧
  (∀ nnn s, JumpsTo (.jp nnn) s nnn.toNat) ∧
  (∀ nnn s, JumpsTo (.jpV0 nnn) s (nnn.toNat + (s.reg 0).toNat))

/-- R112: `2NNN`. -/
def Obligations.CallPushesItsAddress : Prop :=
  (∀ nnn : Addr, decodeWord (0x2#4 ++ nnn) = .ok (.call nnn)) ∧
  (∀ nnn s, s.sp.val = 16 → exec (.call nnn) s = .next (Faulted s .stackOverflow (0x2#4 ++ nnn) 0)) ∧
  (∀ nnn s (h : s.sp.val < 16), ∃ t, exec (.call nnn) s = .next t ∧ t.sp.val = s.sp.val + 1 ∧
    t.stack[s.sp.val] = s.pc ∧ (∀ k : Fin 16, k.val ≠ s.sp.val → t.stack[k] = s.stack[k]) ∧
    t.pc.toNat = nnn.toNat ∧ t = { s with stack := t.stack, sp := t.sp, pc := t.pc } ∧ SameBytes s t)

/-- A call followed by a return goes on at the instruction after the call with the same stack pointer (R110, R112;
90_conflicts.md C1). -/
def Obligations.CallThenReturnComesBack : Prop :=
  ∀ nnn s (_ : s.sp.val < 16), ∃ t u, exec (.call nnn) s = .next t ∧ exec .ret t = .next u ∧
    u = { s with stack := t.stack, pc := s.pc + 2 } ∧ u.stack[s.sp.val] = s.pc ∧
    ∀ k : Fin 16, k.val ≠ s.sp.val → u.stack[k] = s.stack[k]

/-- R113 and R114: `3XNN` and `4XNN`. -/
def Obligations.SkipsOnImmediate : Prop :=
  (∀ (x : Nibble) (nn : Byte), decodeWord (0x3#4 ++ x ++ nn) = .ok (.seImm x nn) ∧
    decodeWord (0x4#4 ++ x ++ nn) = .ok (.sneImm x nn)) ∧
  (∀ x nn s, JumpsTo (.seImm x nn) s (s.pc.toNat + if (s.reg x).toNat = nn.toNat then 4 else 2)) ∧
  (∀ x nn s, JumpsTo (.sneImm x nn) s (s.pc.toNat + if (s.reg x).toNat = nn.toNat then 2 else 4))

/-- R115 and R116: `5XY0` and `9XY0`. -/
def Obligations.SkipsOnRegisters : Prop :=
  (∀ x y : Nibble, decodeWord (0x5#4 ++ x ++ y ++ 0x0#4) = .ok (.seReg x y) ∧
    decodeWord (0x9#4 ++ x ++ y ++ 0x0#4) = .ok (.sneReg x y)) ∧
  (∀ x y s, JumpsTo (.seReg x y) s (s.pc.toNat + if (s.reg x).toNat = (s.reg y).toNat then 4 else 2)) ∧
  (∀ x y s, JumpsTo (.sneReg x y) s (s.pc.toNat + if (s.reg x).toNat = (s.reg y).toNat then 2 else 4))

/-! ### Register loads and the ALU (42_register_alu.md) -/

/-- R130, R132 and R203: `6XNN`, `8XY0` and `FX07`; between two reads a tick takes `DT` down by at most 1. -/
def Obligations.LoadsWriteVx : Prop :=
  (∀ (x : Nibble) (nn : Byte), decodeWord (0x6#4 ++ x ++ nn) = .ok (.ldImm x nn)) ∧
  (∀ x y : Nibble, decodeWord (0x8#4 ++ x ++ y ++ 0x0#4) = .ok (.ldReg x y)) ∧
  (∀ x : Nibble, decodeWord (0xF#4 ++ x ++ 0x07#8) = .ok (.ldVxDt x)) ∧
  (∀ x nn s, ∃ t, exec (.ldImm x nn) s = .next t ∧ WritesOnly s t x nn.toNat) ∧
  (∀ x y s, ∃ t, exec (.ldReg x y) s = .next t ∧ WritesOnly s t x (s.reg y).toNat) ∧
  (∀ x s, ∃ t, exec (.ldVxDt x) s = .next t ∧ WritesOnly s t x s.dt.toNat) ∧
  (∀ x s, ∃ t, exec (.ldVxDt x) (hostTick s).1 = .next t ∧ s.dt.toNat - 1 ≤ (t.reg x).toNat ∧
    (t.reg x).toNat ≤ s.dt.toNat)

/-- R131: `7XNN`, no flag. -/
def Obligations.AddImmediateSetsNoFlag : Prop :=
  (∀ (x : Nibble) (nn : Byte), decodeWord (0x7#4 ++ x ++ nn) = .ok (.addImm x nn)) ∧
  (∀ x nn s, ∃ t, exec (.addImm x nn) s = .next t ∧ WritesOnly s t x (((s.reg x).toNat + nn.toNat) % 256))

/-- R133, R134 and R135: `8XY1`, `8XY2` and `8XY3`, bit by bit, no flag. -/
def Obligations.BitwiseOperationsWriteVx : Prop :=
  (∀ x y : Nibble, decodeWord (0x8#4 ++ x ++ y ++ 0x1#4) = .ok (.orReg x y) ∧
    decodeWord (0x8#4 ++ x ++ y ++ 0x2#4) = .ok (.andReg x y) ∧
    decodeWord (0x8#4 ++ x ++ y ++ 0x3#4) = .ok (.xorReg x y)) ∧
  (∀ x y s, ∃ t, exec (.orReg x y) s = .next t ∧ WritesOnly s t x ((s.reg x).toNat ||| (s.reg y).toNat)) ∧
  (∀ x y s, ∃ t, exec (.andReg x y) s = .next t ∧ WritesOnly s t x ((s.reg x).toNat &&& (s.reg y).toNat)) ∧
  (∀ x y s, ∃ t, exec (.xorReg x y) s = .next t ∧ WritesOnly s t x ((s.reg x).toNat ^^^ (s.reg y).toNat))

/-- R136: `8XY4`. -/
def Obligations.AddSetsCarry : Prop :=
  (∀ x y : Nibble, decodeWord (0x8#4 ++ x ++ y ++ 0x4#4) = .ok (.addReg x y)) ∧
  (∀ x y s, ∃ t, exec (.addReg x y) s = .next t ∧ WritesFlagged s t x
    (if (s.reg x).toNat + (s.reg y).toNat > 255 then 1 else 0) (((s.reg x).toNat + (s.reg y).toNat) % 256))

/-- R137 and R139: `8XY5` and `8XY7`. -/
def Obligations.SubtractionsSetNotBorrow : Prop :=
  (∀ x y : Nibble, decodeWord (0x8#4 ++ x ++ y ++ 0x5#4) = .ok (.sub x y) ∧
    decodeWord (0x8#4 ++ x ++ y ++ 0x7#4) = .ok (.subn x y)) ∧
  (∀ x y s, ∃ t, exec (.sub x y) s = .next t ∧ WritesFlagged s t x
    (if (s.reg y).toNat > (s.reg x).toNat then 0 else 1)
    (((s.reg x).toNat + 256 - (s.reg y).toNat) % 256)) ∧
  (∀ x y s, ∃ t, exec (.subn x y) s = .next t ∧ WritesFlagged s t x
    (if (s.reg x).toNat > (s.reg y).toNat then 0 else 1)
    (((s.reg y).toNat + 256 - (s.reg x).toNat) % 256))

/-- R138 and R140: `8XY6` and `8XYE`; `Y` is encoded and takes no part. -/
def Obligations.ShiftsSetShiftedOutBit : Prop :=
  (∀ x y : Nibble, decodeWord (0x8#4 ++ x ++ y ++ 0x6#4) = .ok (.shr x y) ∧
    decodeWord (0x8#4 ++ x ++ y ++ 0xE#4) = .ok (.shl x y)) ∧
  (∀ x y s, ∃ t, exec (.shr x y) s = .next t ∧ WritesFlagged s t x ((s.reg x).toNat % 2) ((s.reg x).toNat / 2)) ∧
  (∀ x y s, ∃ t, exec (.shl x y) s = .next t ∧
    WritesFlagged s t x ((s.reg x).toNat / 128) ((s.reg x).toNat * 2 % 256))

/-- R143: `VF` as operand and destination, the table row by row, `VF0` being `VF` before the step. -/
def Obligations.VfAsOperandAndDestination : Prop :=
  ∀ (s : State) (vf0 : Nat), vf0 = (s.reg 0xF).toNat →
    (∀ y, y ≠ 0xF → VfAfter (.addReg 0xF y) s
      (byOrder s ((vf0 + (s.reg y).toNat) % 256) (if vf0 + (s.reg y).toNat > 255 then 1 else 0))) ∧
    (∀ x, x ≠ 0xF → ∃ t, exec (.addReg x 0xF) s = .next t ∧
      (t.reg 0xF).toNat = (if (s.reg x).toNat + vf0 > 255 then 1 else 0) ∧
      (t.reg x).toNat = ((s.reg x).toNat + vf0) % 256) ∧
    VfAfter (.addReg 0xF 0xF) s (byOrder s (2 * vf0 % 256) (if vf0 ≥ 0x80 then 1 else 0)) ∧
    (∀ y, y ≠ 0xF → VfAfter (.sub 0xF y) s
      (byOrder s ((vf0 + 256 - (s.reg y).toNat) % 256) (if (s.reg y).toNat > vf0 then 0 else 1))) ∧
    (∀ x, x ≠ 0xF → ∃ t, exec (.sub x 0xF) s = .next t ∧
      (t.reg 0xF).toNat = (if vf0 > (s.reg x).toNat then 0 else 1) ∧
      (t.reg x).toNat = ((s.reg x).toNat + 256 - vf0) % 256) ∧
    VfAfter (.sub 0xF 0xF) s (byOrder s 0 1) ∧
    (∀ y, VfAfter (.shr 0xF y) s (byOrder s (vf0 / 2) (vf0 % 2))) ∧
    (∀ y, y ≠ 0xF → VfAfter (.subn 0xF y) s
      (byOrder s (((s.reg y).toNat + 256 - vf0) % 256) (if vf0 > (s.reg y).toNat then 0 else 1))) ∧
    (∀ x, x ≠ 0xF → ∃ t, exec (.subn x 0xF) s = .next t ∧
      (t.reg 0xF).toNat = (if (s.reg x).toNat > vf0 then 0 else 1) ∧
      (t.reg x).toNat = (vf0 + 256 - (s.reg x).toNat) % 256) ∧
    VfAfter (.subn 0xF 0xF) s (byOrder s 0 1) ∧
    (∀ y, VfAfter (.shl 0xF y) s (byOrder s (vf0 * 2 % 256) (vf0 / 128))) ∧
    (∃ t, exec (.addI 0xF) s = .next t ∧ (t.reg 0xF).toNat = (if s.i.toNat + vf0 > 0xFFF then 1 else 0) ∧
      t.i.toNat = (s.i.toNat + vf0) % 2 ^ s.params.iWidth.bits) ∧
    (∀ x y n, (x = 0xF ∨ y = 0xF) → SpriteFits s n → ∃ t, exec (.drw x y n) s = .next t ∧
      (Collides s x y n → t.reg 0xF = 1) ∧ (¬ Collides s x y n → t.reg 0xF = 0))

/-- R141: `CXNN`: the random byte, some byte under no law in `exec`, and every byte given to the step in `stepWith`,
masked by `NN`. The draw counter, the model's own field, is left open here. -/
def Obligations.RandomByteIsMasked : Prop :=
  (∀ (x : Nibble) (nn : Byte), decodeWord (0xC#4 ++ x ++ nn) = .ok (.rnd x nn)) ∧
  (∀ x nn s, ∃ t r, exec (.rnd x nn) s = .next t ∧
    t = { s with v := t.v, pc := s.pc + 2, draws := t.draws } ∧ SameBytes s t ∧
    ∀ k, t.reg k = if k = x then r &&& nn else s.reg k) ∧
  (∀ x nn s r, s.fetchDecode = .ok (.rnd x nn) → ∃ t, stepWith r s = .next t ∧
    t = { s with v := t.v, pc := s.pc + 2, draws := t.draws } ∧ SameBytes s t ∧
    ∀ k, t.reg k = if k = x then r &&& nn else s.reg k)

/-- The model's choice of log 2, no rule of the spec: `exec` of `CXNN` reads the free byte of the counter `draws` and
moves the counter on by 1, and no other instruction moves it. -/
def Obligations.EachDrawReadsItsOwnByte : Prop :=
  (∀ x nn s, ∃ t, exec (.rnd x nn) s = .next t ∧ t.reg x = Config.rand8 s.draws &&& nn ∧ t.draws = s.draws + 1) ∧
  (∀ i s t, (∀ x nn, i ≠ .rnd x nn) → exec i s = .next t → t.draws = s.draws)

/-! ### Address register and memory transfers (43_index_memory.md) -/

/-- R160 and R162: `ANNN` and `FX29`. -/
def Obligations.IndexLoads : Prop :=
  (∀ nnn : Addr, decodeWord (0xA#4 ++ nnn) = .ok (.ldI nnn)) ∧
  (∀ x : Nibble, decodeWord (0xF#4 ++ x ++ 0x29#8) = .ok (.ldF x)) ∧
  (∀ nnn s, ∃ t, exec (.ldI nnn) s = .next t ∧ t.i.toNat = nnn.toNat ∧
    t = { s with i := t.i, pc := s.pc + 2 } ∧ SameBytes s t) ∧
  (∀ x s, ∃ t, exec (.ldF x) s = .next t ∧ t.i.toNat = 5 * (s.reg x).toNat ∧
    t = { s with i := t.i, pc := s.pc + 2 } ∧ SameBytes s t)

/-- R161: `FX1E`. -/
def Obligations.AddToIndexSetsFlag : Prop :=
  (∀ x : Nibble, decodeWord (0xF#4 ++ x ++ 0x1E#8) = .ok (.addI x)) ∧
  (∀ x s, ∃ t, exec (.addI x) s = .next t ∧
    t.i.toNat = (s.i.toNat + (s.reg x).toNat) % 2 ^ s.params.iWidth.bits ∧
    (∀ k, (t.reg k).toNat =
      if k = 0xF then (if s.i.toNat + (s.reg x).toNat > 0xFFF then 1 else 0) else (s.reg k).toNat) ∧
    t = { s with v := t.v, i := t.i, pc := s.pc + 2 } ∧ SameBytes s t)

/-- R163: `FX33`. The bytes stored are read back in a memory in canonical form (every reachable one). -/
def Obligations.BcdStoresThreeDigits : Prop :=
  (∀ x : Nibble, decodeWord (0xF#4 ++ x ++ 0x33#8) = .ok (.ldB x)) ∧
  (∀ x s, 4096 ≤ s.i.toNat + 2 →
    exec (.ldB x) s = .next (Faulted s .memoryBounds (0xF#4 ++ x ++ 0x33#8) (outsideOf s))) ∧
  (∀ x s, s.i.toNat + 2 < 4096 → ∃ t, exec (.ldB x) s = .next t ∧
    t = { s with mem := t.mem, pc := s.pc + 2 } ∧ SameBytesOutside s t s.dataAddr 3 ∧
    (Memory.wf s.params s.mem →
      (t.readByte s.dataAddr).toNat = (s.reg x).toNat / 100 ∧
      (t.readByte (s.dataAddr + 1)).toNat = (s.reg x).toNat / 10 % 10 ∧
      (t.readByte (s.dataAddr + 2)).toNat = (s.reg x).toNat % 10)) ∧
  (∀ s : State, s.dataAddr = s.i.toNat)

/-- R164: `FX55`. The bytes stored are read back in a memory in canonical form (every reachable one). -/
def Obligations.RegistersAreStored : Prop :=
  (∀ x : Nibble, decodeWord (0xF#4 ++ x ++ 0x55#8) = .ok (.ldMemStore x)) ∧
  (∀ x s, 4096 ≤ s.i.toNat + x.toNat →
    exec (.ldMemStore x) s = .next (Faulted s .memoryBounds (0xF#4 ++ x ++ 0x55#8) (outsideOf s))) ∧
  (∀ x s, s.i.toNat + x.toNat < 4096 → ∃ t, exec (.ldMemStore x) s = .next t ∧
    t = { s with mem := t.mem, pc := s.pc + 2 } ∧ SameBytesOutside s t s.dataAddr (x.toNat + 1) ∧
    (Memory.wf s.params s.mem → ∀ k : Nibble, k.toNat ≤ x.toNat → t.readByte (s.dataAddr + k.toNat) = s.reg k)) ∧
  (∀ s : State, s.dataAddr = s.i.toNat)

/-- R165: `FX65`. -/
def Obligations.RegistersAreLoaded : Prop :=
  (∀ x : Nibble, decodeWord (0xF#4 ++ x ++ 0x65#8) = .ok (.ldMemLoad x)) ∧
  (∀ x s, 4096 ≤ s.i.toNat + x.toNat →
    exec (.ldMemLoad x) s = .next (Faulted s .memoryBounds (0xF#4 ++ x ++ 0x65#8) (outsideOf s))) ∧
  (∀ x s, s.i.toNat + x.toNat < 4096 → ∃ t, exec (.ldMemLoad x) s = .next t ∧
    t = { s with v := t.v, pc := s.pc + 2 } ∧ SameBytes s t ∧
    ∀ k : Nibble, t.reg k = if k.toNat ≤ x.toNat then s.readByte (s.i.toNat + k.toNat) else s.reg k)

/-- A word stored right after the current instruction is what the next step fetches (R64, R284). -/
def Obligations.StoredWordIsFetchedNext : Prop :=
  ∀ s t, Memory.wf s.params s.mem → s.halted = false → s.pc.toNat + 3 < 4096 → s.i = s.pc + 2 →
    exec (.ldMemStore 1) s = .next t →
    t.fetchWord = s.reg 0 ++ s.reg 1 ∧
    ∀ i, decodeWord (s.reg 0 ++ s.reg 1) = .ok i → step t = exec i t

/-! ### Framebuffer (44_display.md) -/

/-- R181: `00E0`; the step that executes it reports `drew`. -/
def Obligations.ClearScreen : Prop :=
  decodeWord 0x00E0 = .ok .cls ∧
  (∀ s, ∃ t, exec .cls s = .next t ∧ (∀ px py, t.cell px py = false) ∧
    t = { s with fb := t.fb, dirty := true, pc := s.pc + 2 } ∧ SameBytes s t) ∧
  (∀ s, s.fetchDecode = .ok .cls → ∃ t, step s = .next t ∧ t.dirty = true ∧ drewOf s t = true)

/-- R182, R183, R184 and R185: `DXYN`. Each cell is inverted exactly if a set sprite bit lands on it, and `VF` says
whether a set cell was turned off. -/
def Obligations.DrawFlipsCoveredCells : Prop :=
  (∀ x y n : Nibble, decodeWord (0xD#4 ++ x ++ y ++ n) = .ok (.drw x y n)) ∧
  (∀ x y n s, n ≠ 0 → 4096 ≤ s.i.toNat + n.toNat - 1 →
    exec (.drw x y n) s = .next (Faulted s .memoryBounds (0xD#4 ++ x ++ y ++ n) (outsideOf s))) ∧
  (∀ x y n s, SpriteFits s n → ∃ t, exec (.drw x y n) s = .next t ∧
    (∀ px py, t.cell px py = true ↔ ¬ (s.cell px py = true ↔ Covers s x y n px py)) ∧
    (Collides s x y n → t.reg 0xF = 1) ∧ (¬ Collides s x y n → t.reg 0xF = 0) ∧
    (∀ k, k ≠ 0xF → t.reg k = s.reg k) ∧
    t = { s with fb := t.fb, dirty := true, v := t.v, pc := s.pc + 2 } ∧ SameBytes s t)

/-- Drawing the same sprite twice restores the framebuffer; if the first draw lit some cell and turned none off, the
second reports the collision (R182, the example of the source's section 8). -/
def Obligations.DrawingTwiceRestores : Prop :=
  ∀ x y n s t u, x ≠ 0xF → y ≠ 0xF → SpriteFits s n → exec (.drw x y n) s = .next t → exec (.drw x y n) t = .next u →
    u.fb = s.fb ∧
    ((∃ px py, Covers s x y n px py) → ¬ Collides s x y n → t.reg 0xF = 0 ∧ u.reg 0xF = 1)

/-- A sprite that lies wholly inside the raster is drawn alike under both edge policies (R183, R184). -/
def Obligations.EdgePolicyIsMootInside : Prop :=
  ∀ x y n s, (s.reg x).toNat + 7 ≤ 63 → (s.reg y).toNat + n.toNat ≤ 32 → SpriteFits s n →
    ∃ t u, exec (.drw x y n) { s with params := { s.params with drawEdge := .wrap } } = .next t ∧
      exec (.drw x y n) { s with params := { s.params with drawEdge := .clip } } = .next u ∧
      t.fb = u.fb ∧ t.v = u.v

/-! ### Input and timers (45_input_timers.md) -/

/-- R200: `EX9E`. -/
def Obligations.SkipIfKeyHeld : Prop :=
  (∀ x : Nibble, decodeWord (0xE#4 ++ x ++ 0x9E#8) = .ok (.skp x)) ∧
  (∀ x s, 15 < (s.reg x).toNat → exec (.skp x) s = .next (Faulted s .keyIndex (0xE#4 ++ x ++ 0x9E#8) 0)) ∧
  (∀ x s (k : Fin 16), (s.reg x).toNat = k.val →
    JumpsTo (.skp x) s (s.pc.toNat + if s.key[k] then 4 else 2))

/-- R201: `EXA1`, under both settings of `EXA1_MODE`. -/
def Obligations.SkipIfKeyNotHeld : Prop :=
  (∀ x : Nibble, decodeWord (0xE#4 ++ x ++ 0xA1#8) = .ok (.sknp x)) ∧
  (∀ x s, s.params.exa1Mode = .dereference → 15 < (s.reg x).toNat →
    exec (.sknp x) s = .next (Faulted s .keyIndex (0xE#4 ++ x ++ 0xA1#8) 0)) ∧
  (∀ x s (k : Fin 16), s.params.exa1Mode = .dereference → (s.reg x).toNat = k.val →
    JumpsTo (.sknp x) s (s.pc.toNat + if s.key[k] then 2 else 4)) ∧
  (∀ x s (k : Fin 16), s.params.exa1Mode = .rawNibble → x.toNat = k.val →
    JumpsTo (.sknp x) s (s.pc.toNat + if s.key[k] then 2 else 4))

/-- R202: `FX0A`, its three cases. -/
def Obligations.KeyWaitCompletesOnNewlyHeldKey : Prop :=
  (∀ x : Nibble, decodeWord (0xF#4 ++ x ++ 0x0A#8) = .ok (.ldVxK x)) ∧
  (∀ x s, s.waitActive = false → exec (.ldVxK x) s = .next { s with waitActive := true, keySnap := s.key }) ∧
  (∀ x s, s.waitActive = true → (∀ k : Fin 16, ¬ (s.key[k] = true ∧ s.keySnap[k] = false)) →
    exec (.ldVxK x) s = .next { s with keySnap := s.key }) ∧
  (∀ x s (k : Fin 16), s.waitActive = true → s.key[k] = true → s.keySnap[k] = false →
    (∀ j : Fin 16, j < k → ¬ (s.key[j] = true ∧ s.keySnap[j] = false)) →
    ∃ t, exec (.ldVxK x) s = .next t ∧ (∀ r, (t.reg r).toNat = if r = x then k.val else (s.reg r).toNat) ∧
      t = { s with v := t.v, waitActive := false, keySnap := s.key, pc := s.pc + 2 } ∧ SameBytes s t)

/-- A step of a key wait writes only `WaitActive` and `KeySnap`, and `V` and `PC` on the step that completes it (R96, the
spec's own inference from R202). -/
def Obligations.WaitingStepTouchesOnlyTheWait : Prop :=
  ∀ s t, CoreInv s → s.waitActive = true → step s = .next t →
    t = { s with waitActive := t.waitActive, keySnap := s.key, v := t.v, pc := t.pc } ∧
    (t.waitActive = true → t.v = s.v ∧ t.pc = s.pc ∧ t.status = .waiting) ∧
    (t.waitActive = false → t.pc = s.pc + 2 ∧ t.status = .executed)

/-- R204 and R205: `FX15` and `FX18`. -/
def Obligations.TimersAreSet : Prop :=
  (∀ x : Nibble, decodeWord (0xF#4 ++ x ++ 0x15#8) = .ok (.ldDtVx x) ∧
    decodeWord (0xF#4 ++ x ++ 0x18#8) = .ok (.ldStVx x)) ∧
  (∀ x s, ∃ t, exec (.ldDtVx x) s = .next t ∧ t = { s with dt := s.reg x, pc := s.pc + 2 } ∧ SameBytes s t) ∧
  (∀ x s, ∃ t, exec (.ldStVx x) s = .next t ∧ t = { s with st := s.reg x, pc := s.pc + 2 } ∧ SameBytes s t)

/-! ### Timers and the host interface (60_exceptions.md, 70_reset_and_hazards.md) -/

/-- R230: `tick()`, and that the host's tick is this one, at any point after the first reset (R240). -/
def Obligations.TickDecrementsTimers : Prop :=
  (∀ s, s.halted = true → hostTick s = (s, false)) ∧
  (∀ s, s.halted = false → ∃ t b, hostTick s = (t, b) ∧ t.dt.toNat = s.dt.toNat - 1 ∧
    t.st.toNat = s.st.toNat - 1 ∧ (b = true ↔ s.st.toNat = 2) ∧ t = { s with dt := t.dt, st := t.st }) ∧
  (∀ x : Session, x.phase ≠ .unreset →
    x.move .tick = some ({ x with core := (hostTick x.core).1 }, .beeped (hostTick x.core).2))

/-- R231: the delay timer reaches 0 after exactly as many ticks as it holds, and stays there. -/
def Obligations.DelayTimerCountsDownExactly : Prop :=
  ∀ n s, s.halted = false →
    (ticks n s).dt.toNat = s.dt.toNat - n ∧ ((ticks n s).dt = 0 ↔ s.dt.toNat ≤ n)

/-- R205: `FX18` itself raises no beep; a sound timer of 2 or more then gives exactly one, on the tick that takes it from
2 to 1, and a timer of 1 or 0 gives none (R233). -/
def Obligations.SoundTimerBeepsOnce : Prop :=
  (∀ x : Nibble, decodeWord (0xF#4 ++ x ++ 0x18#8) = .ok (.ldStVx x)) ∧
  (∀ n s, s.halted = false → beeps n s = if 2 ≤ s.st.toNat ∧ s.st.toNat - 1 ≤ n then 1 else 0) ∧
  (∀ x n s, s.halted = false → ∃ t, exec (.ldStVx x) s = .next t ∧ t.st = s.reg x ∧
    t = { s with st := t.st, pc := s.pc + 2 } ∧ SameBytes s t ∧
    beeps n t = if 2 ≤ (s.reg x).toNat ∧ (s.reg x).toNat - 1 ≤ n then 1 else 0)

/-- R262 and R263: `load`. The bytes are read back in a memory in canonical form (every reachable one). -/
def Obligations.LoadCopiesImage : Prop :=
  (∀ image s, image.length ≤ 3584 → ∃ t, hostLoad image s = (t, .ok) ∧ t = { s with mem := t.mem } ∧
    SameBytesOutside s t 0x200 image.length ∧
    (Memory.wf s.params s.mem → ∀ (k : Nat) (h : k < image.length), t.readByte (0x200 + k) = image[k])) ∧
  (∀ image s, 3584 < image.length → hostLoad image s = (s, .loadTooLarge)) ∧
  (∀ image (x : Session), x.phase = .loadable → image.length ≤ 3584 →
    x.move (.load image) = some ({ core := (hostLoad image x.core).1, phase := .loadable }, .loaded .ok)) ∧
  (∀ image (x : Session), x.phase = .loadable → 3584 < image.length →
    x.move (.load image) = some ({ core := x.core, phase := .loadRefused }, .loaded .loadTooLarge)) ∧
  (∀ image (x : Session), x.phase = .running → x.move (.load image) = none) ∧
  (∀ r (x : Session), x.phase = .loadRefused → x.move (.step r) = none) ∧
  (∀ op (x y : Session) r, x.phase = .loadRefused → op ≠ .reset → x.move op = some (y, r) → y.phase = .loadRefused)

/-- R242, R243 and R244: the framebuffer read port, which changes nothing; `clear_dirty`, the one move but a reset after
which a set `Dirty` is 0; and the input port. A key code above 15 is no move (R267). `read_fault` returns the record at
any point after the first reset (R32, R240). -/
def Obligations.HostPortsReadAndWrite : Prop :=
  (∀ x : Session, x.phase ≠ .unreset → ∃ cells, x.move .readFb = some (x, .frame cells x.core.dirty) ∧
    ∀ (px : Fin 64) (py : Fin 32), cells[px.val + 64 * py.val] = x.core.cell px py) ∧
  (∀ x : Session, x.phase ≠ .unreset →
    x.move .clearDirty = some ({ x with core := { x.core with dirty := false } }, .nothing)) ∧
  (∀ op (x y : Session) r, op ≠ .reset → op ≠ .clearDirty → x.move op = some (y, r) → x.core.dirty = true →
    y.core.dirty = true) ∧
  (∀ (k : Byte) (held : Bool) (x : Session), k.toNat ≤ 15 → x.phase ≠ .unreset →
    ∃ keys, x.move (.setKey k held) = some ({ x with core := { x.core with key := keys } }, .nothing) ∧
      ∀ j : Fin 16, keys[j] = if j.val = k.toNat then held else x.core.key[j]) ∧
  (∀ (k : Byte) held (x : Session), 15 < k.toNat → x.move (.setKey k held) = none) ∧
  (∀ x : Session, x.phase ≠ .unreset → ∃ f, x.move .readFault = some (x, .record f) ∧
    f.halted = x.core.halted ∧ f.faultCause = x.core.faultCause.code ∧ f.faultPC = x.core.faultPC ∧
    f.faultWord = x.core.faultWord ∧ f.faultAddr = x.core.faultAddr)

/-! ### Whole-machine rules -/

/-- What no instruction but those the matrix of R37 names may change, on every outcome; the input matrix and the
parameters are never written by an instruction, and no instruction clears `Dirty` (R29, R30). -/
def Obligations.WritesFollowTheAccessMatrix : Prop :=
  ∀ i s t, exec i s = .next t →
    t.key = s.key ∧ t.params = s.params ∧ (s.dirty = true → t.dirty = true) ∧
    (∀ k, writesReg i k = false → t.reg k = s.reg k) ∧
    (writesIndex i = false → t.i = s.i) ∧
    (usesStack i = false → t.stack = s.stack ∧ t.sp = s.sp) ∧
    (storesBytes i = false → SameBytes s t) ∧
    (isDrawing i = false → t.fb = s.fb ∧ t.dirty = s.dirty) ∧
    ((∀ x, i ≠ .ldDtVx x) → t.dt = s.dt) ∧ ((∀ x, i ≠ .ldStVx x) → t.st = s.st) ∧
    ((∀ x, i ≠ .ldVxK x) → t.waitActive = s.waitActive ∧ t.keySnap = s.keySnap)

/-- Every instruction that R94's table does not name advances `PC` by 2, unless it faults, and a fault leaves `PC`
(R94, R95). -/
def Obligations.OtherInstructionsAdvanceByTwo : Prop :=
  ∀ i s t, s.halted = false → exec i s = .next t →
    (t.halted = true → t.pc = s.pc) ∧ (t.halted = false → setsPc i = false → t.pc = s.pc + 2)

/-- No step from a state that meets the invariant commits a `PC` above 0x10FE, and the next fetch of a `PC` of 0xFFF or
more faults (R99, the spec's own inference; R92). -/
def Obligations.PcStaysBelowTheWrap : Prop :=
  ∀ s t, CoreInv s → step s = .next t → t.pc.toNat ≤ 0x10FE ∧
    (t.halted = false → 0xFFF ≤ t.pc.toNat → step t = .next (Faulted t .memoryBounds 0 (BitVec.ofNat 16 (max t.pc.toNat 0x1000))))
end

