-- ==== Sys2Proof/Laws/Encoding.lean ====
section
/-!
SUPPORT. The formats, fields and masks of the encoding as numbers, so that a claim about words is linear arithmetic.
-/

namespace Sys2Proof

/-! ### Formats -/

theorem formatNNN_toNat (c : Nibble) (nnn : Addr) :
    (formatNNN c nnn).toNat = c.toNat * 4096 + nnn.toNat := by
  have := nnn.isLt
  simp only [formatNNN, BitVec.toNat_append]
  rw [← Nat.shiftLeft_add_eq_or_of_lt (by omega), Nat.shiftLeft_eq]

theorem formatXNN_toNat (c x : Nibble) (nn : Byte) :
    (formatXNN c x nn).toNat = c.toNat * 4096 + x.toNat * 256 + nn.toNat := by
  have := nn.isLt
  have := x.isLt
  simp only [formatXNN, BitVec.toNat_append]
  rw [← Nat.shiftLeft_add_eq_or_of_lt (by omega), ← Nat.shiftLeft_add_eq_or_of_lt (by omega)]
  simp only [Nat.shiftLeft_eq]
  omega

theorem formatXYN_toNat (c x y n : Nibble) :
    (formatXYN c x y n).toNat = c.toNat * 4096 + x.toNat * 256 + y.toNat * 16 + n.toNat := by
  have := x.isLt
  have := y.isLt
  have := n.isLt
  simp only [formatXYN, BitVec.toNat_append]
  rw [← Nat.shiftLeft_add_eq_or_of_lt (by omega), ← Nat.shiftLeft_add_eq_or_of_lt (by omega),
    ← Nat.shiftLeft_add_eq_or_of_lt (by omega)]
  simp only [Nat.shiftLeft_eq]
  omega

/-! ### Fields -/

theorem fieldClass_toNat (w : Word) : (fieldClass w).toNat = w.toNat / 4096 := by
  simp only [fieldClass, BitVec.extractLsb'_toNat, Nat.shiftRight_eq_div_pow]
  omega

theorem fieldX_toNat (w : Word) : (fieldX w).toNat = w.toNat / 256 % 16 := by
  simp [fieldX, Nat.shiftRight_eq_div_pow]

theorem fieldY_toNat (w : Word) : (fieldY w).toNat = w.toNat / 16 % 16 := by
  simp [fieldY, Nat.shiftRight_eq_div_pow]

theorem fieldN_toNat (w : Word) : (fieldN w).toNat = w.toNat % 16 := by
  simp [fieldN]

theorem fieldNN_toNat (w : Word) : (fieldNN w).toNat = w.toNat % 256 := by
  simp [fieldNN]

theorem fieldNNN_toNat (w : Word) : (fieldNNN w).toNat = w.toNat % 4096 := by
  simp [fieldNNN]

/-! ### Masks -/

theorem mask_F000_toNat (w : Word) : (w &&& 0xF000#16).toNat = w.toNat / 4096 * 4096 := by
  have h : w &&& 0xF000#16 = (w >>> 12) <<< 12 := by
    ext i hi
    interval_cases i <;> simp
  rw [h, BitVec.toNat_shiftLeft, BitVec.toNat_ushiftRight, Nat.shiftRight_eq_div_pow, Nat.shiftLeft_eq]
  omega

theorem mask_F00F_toNat (w : Word) : (w &&& 0xF00F#16).toNat = w.toNat / 4096 * 4096 + w.toNat % 16 := by
  have h : w &&& 0xF00F#16 = (w &&& 0xF000#16) + (w &&& 0xF#16) := by
    rw [BitVec.add_eq_or_of_and_eq_zero] <;> ext i hi <;> interval_cases i <;> simp
  have hlow : (w &&& 0xF#16).toNat = w.toNat % 16 := by simpa using Nat.and_two_pow_sub_one_eq_mod w.toNat 4
  rw [h, BitVec.toNat_add, mask_F000_toNat, hlow]
  omega

theorem mask_F0FF_toNat (w : Word) : (w &&& 0xF0FF#16).toNat = w.toNat / 4096 * 4096 + w.toNat % 256 := by
  have h : w &&& 0xF0FF#16 = (w &&& 0xF000#16) + (w &&& 0xFF#16) := by
    rw [BitVec.add_eq_or_of_and_eq_zero] <;> ext i hi <;> interval_cases i <;> simp
  have hlow : (w &&& 0xFF#16).toNat = w.toNat % 256 := by simpa using Nat.and_two_pow_sub_one_eq_mod w.toNat 8
  rw [h, BitVec.toNat_add, mask_F000_toNat, hlow]
  omega

/-! ### Rows -/

/-- A word matches a row when the masked number is the pattern's (R75). -/
theorem OpcodeRow.matchesWord_of_toNat {r : OpcodeRow} {w : Word} (h : (w &&& r.mask).toNat = r.pattern.toNat) :
    r.matchesWord w = true := by
  simp [OpcodeRow.matchesWord, BitVec.eq_of_toNat_eq h]

theorem OpcodeRow.matches_nnn (c : Nibble) (a : Addr) (p : Word) (hp : p.toNat = c.toNat * 4096) :
    OpcodeRow.matchesWord ⟨p, 0xF000#16⟩ (formatNNN c a) = true := by
  refine OpcodeRow.matchesWord_of_toNat ?_
  have := a.isLt
  show (_ &&& 0xF000#16).toNat = p.toNat
  rw [mask_F000_toNat, formatNNN_toNat, hp]
  omega

theorem OpcodeRow.matches_xnn (c x : Nibble) (b : Byte) (p : Word) (hp : p.toNat = c.toNat * 4096) :
    OpcodeRow.matchesWord ⟨p, 0xF000#16⟩ (formatXNN c x b) = true := by
  refine OpcodeRow.matchesWord_of_toNat ?_
  have := b.isLt
  have := x.isLt
  show (_ &&& 0xF000#16).toNat = p.toNat
  rw [mask_F000_toNat, formatXNN_toNat, hp]
  omega

theorem OpcodeRow.matches_xyn (c x y n : Nibble) (p : Word) (hp : p.toNat = c.toNat * 4096) :
    OpcodeRow.matchesWord ⟨p, 0xF000#16⟩ (formatXYN c x y n) = true := by
  refine OpcodeRow.matchesWord_of_toNat ?_
  have := x.isLt
  have := y.isLt
  have := n.isLt
  show (_ &&& 0xF000#16).toNat = p.toNat
  rw [mask_F000_toNat, formatXYN_toNat, hp]
  omega

theorem OpcodeRow.matches_xys (c x y n : Nibble) (p : Word) (hp : p.toNat = c.toNat * 4096 + n.toNat) :
    OpcodeRow.matchesWord ⟨p, 0xF00F#16⟩ (formatXYN c x y n) = true := by
  refine OpcodeRow.matchesWord_of_toNat ?_
  have := x.isLt
  have := y.isLt
  have := n.isLt
  show (_ &&& 0xF00F#16).toNat = p.toNat
  rw [mask_F00F_toNat, formatXYN_toNat, hp]
  omega

theorem OpcodeRow.matches_xss (c x : Nibble) (b : Byte) (p : Word) (hp : p.toNat = c.toNat * 4096 + b.toNat) :
    OpcodeRow.matchesWord ⟨p, 0xF0FF#16⟩ (formatXNN c x b) = true := by
  refine OpcodeRow.matchesWord_of_toNat ?_
  have := x.isLt
  have := b.isLt
  show (_ &&& 0xF0FF#16).toNat = p.toNat
  rw [mask_F0FF_toNat, formatXNN_toNat, hp]
  omega

/-! ### Bytes -/

theorem wordOfBytes_toNat (hi lo : Byte) : (wordOfBytes hi lo).toNat = hi.toNat * 256 + lo.toNat := by
  have := lo.isLt
  simp only [wordOfBytes, BitVec.toNat_append]
  rw [← Nat.shiftLeft_add_eq_or_of_lt (by omega), Nat.shiftLeft_eq]

/-- The two bytes of a word, put together again, are the word (R54). -/
theorem wordOfBytes_highByte_lowByte (w : Word) : wordOfBytes (highByte w) (lowByte w) = w := by
  apply BitVec.eq_of_toNat_eq
  rw [wordOfBytes_toNat]
  simp only [highByte, lowByte, BitVec.extractLsb'_toNat, Nat.shiftRight_eq_div_pow]
  omega

end Sys2Proof
end

