-- ==== Sys2Proof/Laws/State.lean ====
section
/-!
SUPPORT. What each update of the state does to each field: one lemma per field per update, so that no proof unfolds a
record update.
-/

namespace Sys2Proof.Machine

variable (s : State)

/-! `setReg` -/

@[simp] theorem State.setReg_mem (x : Nibble) (b : Byte) : (s.setReg x b).mem = s.mem := rfl
@[simp] theorem State.setReg_v (x : Nibble) (b : Byte) : (s.setReg x b).v = s.v.set (regIndex x) b := rfl
@[simp] theorem State.setReg_i (x : Nibble) (b : Byte) : (s.setReg x b).i = s.i := rfl
@[simp] theorem State.setReg_pc (x : Nibble) (b : Byte) : (s.setReg x b).pc = s.pc := rfl
@[simp] theorem State.setReg_stack (x : Nibble) (b : Byte) : (s.setReg x b).stack = s.stack := rfl
@[simp] theorem State.setReg_sp (x : Nibble) (b : Byte) : (s.setReg x b).sp = s.sp := rfl
@[simp] theorem State.setReg_dt (x : Nibble) (b : Byte) : (s.setReg x b).dt = s.dt := rfl
@[simp] theorem State.setReg_st (x : Nibble) (b : Byte) : (s.setReg x b).st = s.st := rfl
@[simp] theorem State.setReg_fb (x : Nibble) (b : Byte) : (s.setReg x b).fb = s.fb := rfl
@[simp] theorem State.setReg_dirty (x : Nibble) (b : Byte) : (s.setReg x b).dirty = s.dirty := rfl
@[simp] theorem State.setReg_key (x : Nibble) (b : Byte) : (s.setReg x b).key = s.key := rfl
@[simp] theorem State.setReg_waitActive (x : Nibble) (b : Byte) : (s.setReg x b).waitActive = s.waitActive := rfl
@[simp] theorem State.setReg_keySnap (x : Nibble) (b : Byte) : (s.setReg x b).keySnap = s.keySnap := rfl
@[simp] theorem State.setReg_halted (x : Nibble) (b : Byte) : (s.setReg x b).halted = s.halted := rfl
@[simp] theorem State.setReg_faultCause (x : Nibble) (b : Byte) : (s.setReg x b).faultCause = s.faultCause := rfl
@[simp] theorem State.setReg_faultPC (x : Nibble) (b : Byte) : (s.setReg x b).faultPC = s.faultPC := rfl
@[simp] theorem State.setReg_faultWord (x : Nibble) (b : Byte) : (s.setReg x b).faultWord = s.faultWord := rfl
@[simp] theorem State.setReg_faultAddr (x : Nibble) (b : Byte) : (s.setReg x b).faultAddr = s.faultAddr := rfl
@[simp] theorem State.setReg_params (x : Nibble) (b : Byte) : (s.setReg x b).params = s.params := rfl
@[simp] theorem State.setReg_draws (x : Nibble) (b : Byte) : (s.setReg x b).draws = s.draws := rfl

/-! `loadRegs` -/

@[simp] theorem State.loadRegs_mem (bs : List Byte) : (s.loadRegs bs).mem = s.mem := rfl
@[simp] theorem State.loadRegs_v (bs : List Byte) : (s.loadRegs bs).v = writeRegs s.v 0 bs := rfl
@[simp] theorem State.loadRegs_i (bs : List Byte) : (s.loadRegs bs).i = s.i := rfl
@[simp] theorem State.loadRegs_pc (bs : List Byte) : (s.loadRegs bs).pc = s.pc := rfl
@[simp] theorem State.loadRegs_stack (bs : List Byte) : (s.loadRegs bs).stack = s.stack := rfl
@[simp] theorem State.loadRegs_sp (bs : List Byte) : (s.loadRegs bs).sp = s.sp := rfl
@[simp] theorem State.loadRegs_dt (bs : List Byte) : (s.loadRegs bs).dt = s.dt := rfl
@[simp] theorem State.loadRegs_st (bs : List Byte) : (s.loadRegs bs).st = s.st := rfl
@[simp] theorem State.loadRegs_fb (bs : List Byte) : (s.loadRegs bs).fb = s.fb := rfl
@[simp] theorem State.loadRegs_dirty (bs : List Byte) : (s.loadRegs bs).dirty = s.dirty := rfl
@[simp] theorem State.loadRegs_key (bs : List Byte) : (s.loadRegs bs).key = s.key := rfl
@[simp] theorem State.loadRegs_waitActive (bs : List Byte) : (s.loadRegs bs).waitActive = s.waitActive := rfl
@[simp] theorem State.loadRegs_keySnap (bs : List Byte) : (s.loadRegs bs).keySnap = s.keySnap := rfl
@[simp] theorem State.loadRegs_halted (bs : List Byte) : (s.loadRegs bs).halted = s.halted := rfl
@[simp] theorem State.loadRegs_faultCause (bs : List Byte) : (s.loadRegs bs).faultCause = s.faultCause := rfl
@[simp] theorem State.loadRegs_faultPC (bs : List Byte) : (s.loadRegs bs).faultPC = s.faultPC := rfl
@[simp] theorem State.loadRegs_faultWord (bs : List Byte) : (s.loadRegs bs).faultWord = s.faultWord := rfl
@[simp] theorem State.loadRegs_faultAddr (bs : List Byte) : (s.loadRegs bs).faultAddr = s.faultAddr := rfl
@[simp] theorem State.loadRegs_params (bs : List Byte) : (s.loadRegs bs).params = s.params := rfl
@[simp] theorem State.loadRegs_draws (bs : List Byte) : (s.loadRegs bs).draws = s.draws := rfl

/-! `storeRun` -/

@[simp] theorem State.storeRun_mem (a : Nat) (bs : List Byte) : (s.storeRun a bs).mem = Memory.writeRun s.params s.mem a bs := rfl
@[simp] theorem State.storeRun_v (a : Nat) (bs : List Byte) : (s.storeRun a bs).v = s.v := rfl
@[simp] theorem State.storeRun_i (a : Nat) (bs : List Byte) : (s.storeRun a bs).i = s.i := rfl
@[simp] theorem State.storeRun_pc (a : Nat) (bs : List Byte) : (s.storeRun a bs).pc = s.pc := rfl
@[simp] theorem State.storeRun_stack (a : Nat) (bs : List Byte) : (s.storeRun a bs).stack = s.stack := rfl
@[simp] theorem State.storeRun_sp (a : Nat) (bs : List Byte) : (s.storeRun a bs).sp = s.sp := rfl
@[simp] theorem State.storeRun_dt (a : Nat) (bs : List Byte) : (s.storeRun a bs).dt = s.dt := rfl
@[simp] theorem State.storeRun_st (a : Nat) (bs : List Byte) : (s.storeRun a bs).st = s.st := rfl
@[simp] theorem State.storeRun_fb (a : Nat) (bs : List Byte) : (s.storeRun a bs).fb = s.fb := rfl
@[simp] theorem State.storeRun_dirty (a : Nat) (bs : List Byte) : (s.storeRun a bs).dirty = s.dirty := rfl
@[simp] theorem State.storeRun_key (a : Nat) (bs : List Byte) : (s.storeRun a bs).key = s.key := rfl
@[simp] theorem State.storeRun_waitActive (a : Nat) (bs : List Byte) : (s.storeRun a bs).waitActive = s.waitActive := rfl
@[simp] theorem State.storeRun_keySnap (a : Nat) (bs : List Byte) : (s.storeRun a bs).keySnap = s.keySnap := rfl
@[simp] theorem State.storeRun_halted (a : Nat) (bs : List Byte) : (s.storeRun a bs).halted = s.halted := rfl
@[simp] theorem State.storeRun_faultCause (a : Nat) (bs : List Byte) : (s.storeRun a bs).faultCause = s.faultCause := rfl
@[simp] theorem State.storeRun_faultPC (a : Nat) (bs : List Byte) : (s.storeRun a bs).faultPC = s.faultPC := rfl
@[simp] theorem State.storeRun_faultWord (a : Nat) (bs : List Byte) : (s.storeRun a bs).faultWord = s.faultWord := rfl
@[simp] theorem State.storeRun_faultAddr (a : Nat) (bs : List Byte) : (s.storeRun a bs).faultAddr = s.faultAddr := rfl
@[simp] theorem State.storeRun_params (a : Nat) (bs : List Byte) : (s.storeRun a bs).params = s.params := rfl
@[simp] theorem State.storeRun_draws (a : Nat) (bs : List Byte) : (s.storeRun a bs).draws = s.draws := rfl

/-! `setIndex` -/

@[simp] theorem State.setIndex_mem (a : Nat) : (s.setIndex a).mem = s.mem := rfl
@[simp] theorem State.setIndex_v (a : Nat) : (s.setIndex a).v = s.v := rfl
@[simp] theorem State.setIndex_i (a : Nat) : (s.setIndex a).i = indexOf s.params a := rfl
@[simp] theorem State.setIndex_pc (a : Nat) : (s.setIndex a).pc = s.pc := rfl
@[simp] theorem State.setIndex_stack (a : Nat) : (s.setIndex a).stack = s.stack := rfl
@[simp] theorem State.setIndex_sp (a : Nat) : (s.setIndex a).sp = s.sp := rfl
@[simp] theorem State.setIndex_dt (a : Nat) : (s.setIndex a).dt = s.dt := rfl
@[simp] theorem State.setIndex_st (a : Nat) : (s.setIndex a).st = s.st := rfl
@[simp] theorem State.setIndex_fb (a : Nat) : (s.setIndex a).fb = s.fb := rfl
@[simp] theorem State.setIndex_dirty (a : Nat) : (s.setIndex a).dirty = s.dirty := rfl
@[simp] theorem State.setIndex_key (a : Nat) : (s.setIndex a).key = s.key := rfl
@[simp] theorem State.setIndex_waitActive (a : Nat) : (s.setIndex a).waitActive = s.waitActive := rfl
@[simp] theorem State.setIndex_keySnap (a : Nat) : (s.setIndex a).keySnap = s.keySnap := rfl
@[simp] theorem State.setIndex_halted (a : Nat) : (s.setIndex a).halted = s.halted := rfl
@[simp] theorem State.setIndex_faultCause (a : Nat) : (s.setIndex a).faultCause = s.faultCause := rfl
@[simp] theorem State.setIndex_faultPC (a : Nat) : (s.setIndex a).faultPC = s.faultPC := rfl
@[simp] theorem State.setIndex_faultWord (a : Nat) : (s.setIndex a).faultWord = s.faultWord := rfl
@[simp] theorem State.setIndex_faultAddr (a : Nat) : (s.setIndex a).faultAddr = s.faultAddr := rfl
@[simp] theorem State.setIndex_params (a : Nat) : (s.setIndex a).params = s.params := rfl
@[simp] theorem State.setIndex_draws (a : Nat) : (s.setIndex a).draws = s.draws := rfl

/-! `setDelay` -/

@[simp] theorem State.setDelay_mem (b : Byte) : (s.setDelay b).mem = s.mem := rfl
@[simp] theorem State.setDelay_v (b : Byte) : (s.setDelay b).v = s.v := rfl
@[simp] theorem State.setDelay_i (b : Byte) : (s.setDelay b).i = s.i := rfl
@[simp] theorem State.setDelay_pc (b : Byte) : (s.setDelay b).pc = s.pc := rfl
@[simp] theorem State.setDelay_stack (b : Byte) : (s.setDelay b).stack = s.stack := rfl
@[simp] theorem State.setDelay_sp (b : Byte) : (s.setDelay b).sp = s.sp := rfl
@[simp] theorem State.setDelay_dt (b : Byte) : (s.setDelay b).dt = b := rfl
@[simp] theorem State.setDelay_st (b : Byte) : (s.setDelay b).st = s.st := rfl
@[simp] theorem State.setDelay_fb (b : Byte) : (s.setDelay b).fb = s.fb := rfl
@[simp] theorem State.setDelay_dirty (b : Byte) : (s.setDelay b).dirty = s.dirty := rfl
@[simp] theorem State.setDelay_key (b : Byte) : (s.setDelay b).key = s.key := rfl
@[simp] theorem State.setDelay_waitActive (b : Byte) : (s.setDelay b).waitActive = s.waitActive := rfl
@[simp] theorem State.setDelay_keySnap (b : Byte) : (s.setDelay b).keySnap = s.keySnap := rfl
@[simp] theorem State.setDelay_halted (b : Byte) : (s.setDelay b).halted = s.halted := rfl
@[simp] theorem State.setDelay_faultCause (b : Byte) : (s.setDelay b).faultCause = s.faultCause := rfl
@[simp] theorem State.setDelay_faultPC (b : Byte) : (s.setDelay b).faultPC = s.faultPC := rfl
@[simp] theorem State.setDelay_faultWord (b : Byte) : (s.setDelay b).faultWord = s.faultWord := rfl
@[simp] theorem State.setDelay_faultAddr (b : Byte) : (s.setDelay b).faultAddr = s.faultAddr := rfl
@[simp] theorem State.setDelay_params (b : Byte) : (s.setDelay b).params = s.params := rfl
@[simp] theorem State.setDelay_draws (b : Byte) : (s.setDelay b).draws = s.draws := rfl

/-! `setSound` -/

@[simp] theorem State.setSound_mem (b : Byte) : (s.setSound b).mem = s.mem := rfl
@[simp] theorem State.setSound_v (b : Byte) : (s.setSound b).v = s.v := rfl
@[simp] theorem State.setSound_i (b : Byte) : (s.setSound b).i = s.i := rfl
@[simp] theorem State.setSound_pc (b : Byte) : (s.setSound b).pc = s.pc := rfl
@[simp] theorem State.setSound_stack (b : Byte) : (s.setSound b).stack = s.stack := rfl
@[simp] theorem State.setSound_sp (b : Byte) : (s.setSound b).sp = s.sp := rfl
@[simp] theorem State.setSound_dt (b : Byte) : (s.setSound b).dt = s.dt := rfl
@[simp] theorem State.setSound_st (b : Byte) : (s.setSound b).st = b := rfl
@[simp] theorem State.setSound_fb (b : Byte) : (s.setSound b).fb = s.fb := rfl
@[simp] theorem State.setSound_dirty (b : Byte) : (s.setSound b).dirty = s.dirty := rfl
@[simp] theorem State.setSound_key (b : Byte) : (s.setSound b).key = s.key := rfl
@[simp] theorem State.setSound_waitActive (b : Byte) : (s.setSound b).waitActive = s.waitActive := rfl
@[simp] theorem State.setSound_keySnap (b : Byte) : (s.setSound b).keySnap = s.keySnap := rfl
@[simp] theorem State.setSound_halted (b : Byte) : (s.setSound b).halted = s.halted := rfl
@[simp] theorem State.setSound_faultCause (b : Byte) : (s.setSound b).faultCause = s.faultCause := rfl
@[simp] theorem State.setSound_faultPC (b : Byte) : (s.setSound b).faultPC = s.faultPC := rfl
@[simp] theorem State.setSound_faultWord (b : Byte) : (s.setSound b).faultWord = s.faultWord := rfl
@[simp] theorem State.setSound_faultAddr (b : Byte) : (s.setSound b).faultAddr = s.faultAddr := rfl
@[simp] theorem State.setSound_params (b : Byte) : (s.setSound b).params = s.params := rfl
@[simp] theorem State.setSound_draws (b : Byte) : (s.setSound b).draws = s.draws := rfl

/-! `present` -/

@[simp] theorem State.present_mem (fb : Vector Bool 2048) : (s.present fb).mem = s.mem := rfl
@[simp] theorem State.present_v (fb : Vector Bool 2048) : (s.present fb).v = s.v := rfl
@[simp] theorem State.present_i (fb : Vector Bool 2048) : (s.present fb).i = s.i := rfl
@[simp] theorem State.present_pc (fb : Vector Bool 2048) : (s.present fb).pc = s.pc := rfl
@[simp] theorem State.present_stack (fb : Vector Bool 2048) : (s.present fb).stack = s.stack := rfl
@[simp] theorem State.present_sp (fb : Vector Bool 2048) : (s.present fb).sp = s.sp := rfl
@[simp] theorem State.present_dt (fb : Vector Bool 2048) : (s.present fb).dt = s.dt := rfl
@[simp] theorem State.present_st (fb : Vector Bool 2048) : (s.present fb).st = s.st := rfl
@[simp] theorem State.present_fb (fb : Vector Bool 2048) : (s.present fb).fb = fb := rfl
@[simp] theorem State.present_dirty (fb : Vector Bool 2048) : (s.present fb).dirty = true := rfl
@[simp] theorem State.present_key (fb : Vector Bool 2048) : (s.present fb).key = s.key := rfl
@[simp] theorem State.present_waitActive (fb : Vector Bool 2048) : (s.present fb).waitActive = s.waitActive := rfl
@[simp] theorem State.present_keySnap (fb : Vector Bool 2048) : (s.present fb).keySnap = s.keySnap := rfl
@[simp] theorem State.present_halted (fb : Vector Bool 2048) : (s.present fb).halted = s.halted := rfl
@[simp] theorem State.present_faultCause (fb : Vector Bool 2048) : (s.present fb).faultCause = s.faultCause := rfl
@[simp] theorem State.present_faultPC (fb : Vector Bool 2048) : (s.present fb).faultPC = s.faultPC := rfl
@[simp] theorem State.present_faultWord (fb : Vector Bool 2048) : (s.present fb).faultWord = s.faultWord := rfl
@[simp] theorem State.present_faultAddr (fb : Vector Bool 2048) : (s.present fb).faultAddr = s.faultAddr := rfl
@[simp] theorem State.present_params (fb : Vector Bool 2048) : (s.present fb).params = s.params := rfl
@[simp] theorem State.present_draws (fb : Vector Bool 2048) : (s.present fb).draws = s.draws := rfl

/-! `setWait` -/

@[simp] theorem State.setWait_mem (a : Bool) (snap : Vector Bool 16) : (s.setWait a snap).mem = s.mem := rfl
@[simp] theorem State.setWait_v (a : Bool) (snap : Vector Bool 16) : (s.setWait a snap).v = s.v := rfl
@[simp] theorem State.setWait_i (a : Bool) (snap : Vector Bool 16) : (s.setWait a snap).i = s.i := rfl
@[simp] theorem State.setWait_pc (a : Bool) (snap : Vector Bool 16) : (s.setWait a snap).pc = s.pc := rfl
@[simp] theorem State.setWait_stack (a : Bool) (snap : Vector Bool 16) : (s.setWait a snap).stack = s.stack := rfl
@[simp] theorem State.setWait_sp (a : Bool) (snap : Vector Bool 16) : (s.setWait a snap).sp = s.sp := rfl
@[simp] theorem State.setWait_dt (a : Bool) (snap : Vector Bool 16) : (s.setWait a snap).dt = s.dt := rfl
@[simp] theorem State.setWait_st (a : Bool) (snap : Vector Bool 16) : (s.setWait a snap).st = s.st := rfl
@[simp] theorem State.setWait_fb (a : Bool) (snap : Vector Bool 16) : (s.setWait a snap).fb = s.fb := rfl
@[simp] theorem State.setWait_dirty (a : Bool) (snap : Vector Bool 16) : (s.setWait a snap).dirty = s.dirty := rfl
@[simp] theorem State.setWait_key (a : Bool) (snap : Vector Bool 16) : (s.setWait a snap).key = s.key := rfl
@[simp] theorem State.setWait_waitActive (a : Bool) (snap : Vector Bool 16) : (s.setWait a snap).waitActive = a := rfl
@[simp] theorem State.setWait_keySnap (a : Bool) (snap : Vector Bool 16) : (s.setWait a snap).keySnap = snap := rfl
@[simp] theorem State.setWait_halted (a : Bool) (snap : Vector Bool 16) : (s.setWait a snap).halted = s.halted := rfl
@[simp] theorem State.setWait_faultCause (a : Bool) (snap : Vector Bool 16) : (s.setWait a snap).faultCause = s.faultCause := rfl
@[simp] theorem State.setWait_faultPC (a : Bool) (snap : Vector Bool 16) : (s.setWait a snap).faultPC = s.faultPC := rfl
@[simp] theorem State.setWait_faultWord (a : Bool) (snap : Vector Bool 16) : (s.setWait a snap).faultWord = s.faultWord := rfl
@[simp] theorem State.setWait_faultAddr (a : Bool) (snap : Vector Bool 16) : (s.setWait a snap).faultAddr = s.faultAddr := rfl
@[simp] theorem State.setWait_params (a : Bool) (snap : Vector Bool 16) : (s.setWait a snap).params = s.params := rfl
@[simp] theorem State.setWait_draws (a : Bool) (snap : Vector Bool 16) : (s.setWait a snap).draws = s.draws := rfl

/-! `drawn` -/

@[simp] theorem State.drawn_mem : s.drawn.mem = s.mem := rfl
@[simp] theorem State.drawn_v : s.drawn.v = s.v := rfl
@[simp] theorem State.drawn_i : s.drawn.i = s.i := rfl
@[simp] theorem State.drawn_pc : s.drawn.pc = s.pc := rfl
@[simp] theorem State.drawn_stack : s.drawn.stack = s.stack := rfl
@[simp] theorem State.drawn_sp : s.drawn.sp = s.sp := rfl
@[simp] theorem State.drawn_dt : s.drawn.dt = s.dt := rfl
@[simp] theorem State.drawn_st : s.drawn.st = s.st := rfl
@[simp] theorem State.drawn_fb : s.drawn.fb = s.fb := rfl
@[simp] theorem State.drawn_dirty : s.drawn.dirty = s.dirty := rfl
@[simp] theorem State.drawn_key : s.drawn.key = s.key := rfl
@[simp] theorem State.drawn_waitActive : s.drawn.waitActive = s.waitActive := rfl
@[simp] theorem State.drawn_keySnap : s.drawn.keySnap = s.keySnap := rfl
@[simp] theorem State.drawn_halted : s.drawn.halted = s.halted := rfl
@[simp] theorem State.drawn_faultCause : s.drawn.faultCause = s.faultCause := rfl
@[simp] theorem State.drawn_faultPC : s.drawn.faultPC = s.faultPC := rfl
@[simp] theorem State.drawn_faultWord : s.drawn.faultWord = s.faultWord := rfl
@[simp] theorem State.drawn_faultAddr : s.drawn.faultAddr = s.faultAddr := rfl
@[simp] theorem State.drawn_params : s.drawn.params = s.params := rfl
@[simp] theorem State.drawn_draws : s.drawn.draws = s.draws + 1 := rfl

/-! `goto` -/

@[simp] theorem State.goto_mem (t : Word) : (s.goto t).mem = s.mem := rfl
@[simp] theorem State.goto_v (t : Word) : (s.goto t).v = s.v := rfl
@[simp] theorem State.goto_i (t : Word) : (s.goto t).i = s.i := rfl
@[simp] theorem State.goto_pc (t : Word) : (s.goto t).pc = t := rfl
@[simp] theorem State.goto_stack (t : Word) : (s.goto t).stack = s.stack := rfl
@[simp] theorem State.goto_sp (t : Word) : (s.goto t).sp = s.sp := rfl
@[simp] theorem State.goto_dt (t : Word) : (s.goto t).dt = s.dt := rfl
@[simp] theorem State.goto_st (t : Word) : (s.goto t).st = s.st := rfl
@[simp] theorem State.goto_fb (t : Word) : (s.goto t).fb = s.fb := rfl
@[simp] theorem State.goto_dirty (t : Word) : (s.goto t).dirty = s.dirty := rfl
@[simp] theorem State.goto_key (t : Word) : (s.goto t).key = s.key := rfl
@[simp] theorem State.goto_waitActive (t : Word) : (s.goto t).waitActive = s.waitActive := rfl
@[simp] theorem State.goto_keySnap (t : Word) : (s.goto t).keySnap = s.keySnap := rfl
@[simp] theorem State.goto_halted (t : Word) : (s.goto t).halted = s.halted := rfl
@[simp] theorem State.goto_faultCause (t : Word) : (s.goto t).faultCause = s.faultCause := rfl
@[simp] theorem State.goto_faultPC (t : Word) : (s.goto t).faultPC = s.faultPC := rfl
@[simp] theorem State.goto_faultWord (t : Word) : (s.goto t).faultWord = s.faultWord := rfl
@[simp] theorem State.goto_faultAddr (t : Word) : (s.goto t).faultAddr = s.faultAddr := rfl
@[simp] theorem State.goto_params (t : Word) : (s.goto t).params = s.params := rfl
@[simp] theorem State.goto_draws (t : Word) : (s.goto t).draws = s.draws := rfl

/-! `advance` -/

@[simp] theorem State.advance_mem : s.advance.mem = s.mem := rfl
@[simp] theorem State.advance_v : s.advance.v = s.v := rfl
@[simp] theorem State.advance_i : s.advance.i = s.i := rfl
@[simp] theorem State.advance_pc : s.advance.pc = s.pc + 2 := rfl
@[simp] theorem State.advance_stack : s.advance.stack = s.stack := rfl
@[simp] theorem State.advance_sp : s.advance.sp = s.sp := rfl
@[simp] theorem State.advance_dt : s.advance.dt = s.dt := rfl
@[simp] theorem State.advance_st : s.advance.st = s.st := rfl
@[simp] theorem State.advance_fb : s.advance.fb = s.fb := rfl
@[simp] theorem State.advance_dirty : s.advance.dirty = s.dirty := rfl
@[simp] theorem State.advance_key : s.advance.key = s.key := rfl
@[simp] theorem State.advance_waitActive : s.advance.waitActive = s.waitActive := rfl
@[simp] theorem State.advance_keySnap : s.advance.keySnap = s.keySnap := rfl
@[simp] theorem State.advance_halted : s.advance.halted = s.halted := rfl
@[simp] theorem State.advance_faultCause : s.advance.faultCause = s.faultCause := rfl
@[simp] theorem State.advance_faultPC : s.advance.faultPC = s.faultPC := rfl
@[simp] theorem State.advance_faultWord : s.advance.faultWord = s.faultWord := rfl
@[simp] theorem State.advance_faultAddr : s.advance.faultAddr = s.faultAddr := rfl
@[simp] theorem State.advance_params : s.advance.params = s.params := rfl
@[simp] theorem State.advance_draws : s.advance.draws = s.draws := rfl

/-! `skipIf` -/

@[simp] theorem State.skipIf_mem (c : Bool) : (s.skipIf c).mem = s.mem := rfl
@[simp] theorem State.skipIf_v (c : Bool) : (s.skipIf c).v = s.v := rfl
@[simp] theorem State.skipIf_i (c : Bool) : (s.skipIf c).i = s.i := rfl
@[simp] theorem State.skipIf_pc (c : Bool) : (s.skipIf c).pc = if c then s.pc + 4 else s.pc + 2 := rfl
@[simp] theorem State.skipIf_stack (c : Bool) : (s.skipIf c).stack = s.stack := rfl
@[simp] theorem State.skipIf_sp (c : Bool) : (s.skipIf c).sp = s.sp := rfl
@[simp] theorem State.skipIf_dt (c : Bool) : (s.skipIf c).dt = s.dt := rfl
@[simp] theorem State.skipIf_st (c : Bool) : (s.skipIf c).st = s.st := rfl
@[simp] theorem State.skipIf_fb (c : Bool) : (s.skipIf c).fb = s.fb := rfl
@[simp] theorem State.skipIf_dirty (c : Bool) : (s.skipIf c).dirty = s.dirty := rfl
@[simp] theorem State.skipIf_key (c : Bool) : (s.skipIf c).key = s.key := rfl
@[simp] theorem State.skipIf_waitActive (c : Bool) : (s.skipIf c).waitActive = s.waitActive := rfl
@[simp] theorem State.skipIf_keySnap (c : Bool) : (s.skipIf c).keySnap = s.keySnap := rfl
@[simp] theorem State.skipIf_halted (c : Bool) : (s.skipIf c).halted = s.halted := rfl
@[simp] theorem State.skipIf_faultCause (c : Bool) : (s.skipIf c).faultCause = s.faultCause := rfl
@[simp] theorem State.skipIf_faultPC (c : Bool) : (s.skipIf c).faultPC = s.faultPC := rfl
@[simp] theorem State.skipIf_faultWord (c : Bool) : (s.skipIf c).faultWord = s.faultWord := rfl
@[simp] theorem State.skipIf_faultAddr (c : Bool) : (s.skipIf c).faultAddr = s.faultAddr := rfl
@[simp] theorem State.skipIf_params (c : Bool) : (s.skipIf c).params = s.params := rfl
@[simp] theorem State.skipIf_draws (c : Bool) : (s.skipIf c).draws = s.draws := rfl

/-! `pop` -/

@[simp] theorem State.pop_mem : s.pop.mem = s.mem := rfl
@[simp] theorem State.pop_v : s.pop.v = s.v := rfl
@[simp] theorem State.pop_i : s.pop.i = s.i := rfl
@[simp] theorem State.pop_pc : s.pop.pc = s.pc := rfl
@[simp] theorem State.pop_stack : s.pop.stack = s.stack := rfl
@[simp] theorem State.pop_sp : s.pop.sp = s.spDown := rfl
@[simp] theorem State.pop_dt : s.pop.dt = s.dt := rfl
@[simp] theorem State.pop_st : s.pop.st = s.st := rfl
@[simp] theorem State.pop_fb : s.pop.fb = s.fb := rfl
@[simp] theorem State.pop_dirty : s.pop.dirty = s.dirty := rfl
@[simp] theorem State.pop_key : s.pop.key = s.key := rfl
@[simp] theorem State.pop_waitActive : s.pop.waitActive = s.waitActive := rfl
@[simp] theorem State.pop_keySnap : s.pop.keySnap = s.keySnap := rfl
@[simp] theorem State.pop_halted : s.pop.halted = s.halted := rfl
@[simp] theorem State.pop_faultCause : s.pop.faultCause = s.faultCause := rfl
@[simp] theorem State.pop_faultPC : s.pop.faultPC = s.faultPC := rfl
@[simp] theorem State.pop_faultWord : s.pop.faultWord = s.faultWord := rfl
@[simp] theorem State.pop_faultAddr : s.pop.faultAddr = s.faultAddr := rfl
@[simp] theorem State.pop_params : s.pop.params = s.params := rfl
@[simp] theorem State.pop_draws : s.pop.draws = s.draws := rfl

/-! `raise` -/

@[simp] theorem State.raise_mem (c : FaultCause) (w : Word) (a : Nat) : (s.raise c w a).mem = s.mem := rfl
@[simp] theorem State.raise_v (c : FaultCause) (w : Word) (a : Nat) : (s.raise c w a).v = s.v := rfl
@[simp] theorem State.raise_i (c : FaultCause) (w : Word) (a : Nat) : (s.raise c w a).i = s.i := rfl
@[simp] theorem State.raise_pc (c : FaultCause) (w : Word) (a : Nat) : (s.raise c w a).pc = s.pc := rfl
@[simp] theorem State.raise_stack (c : FaultCause) (w : Word) (a : Nat) : (s.raise c w a).stack = s.stack := rfl
@[simp] theorem State.raise_sp (c : FaultCause) (w : Word) (a : Nat) : (s.raise c w a).sp = s.sp := rfl
@[simp] theorem State.raise_dt (c : FaultCause) (w : Word) (a : Nat) : (s.raise c w a).dt = s.dt := rfl
@[simp] theorem State.raise_st (c : FaultCause) (w : Word) (a : Nat) : (s.raise c w a).st = s.st := rfl
@[simp] theorem State.raise_fb (c : FaultCause) (w : Word) (a : Nat) : (s.raise c w a).fb = s.fb := rfl
@[simp] theorem State.raise_dirty (c : FaultCause) (w : Word) (a : Nat) : (s.raise c w a).dirty = s.dirty := rfl
@[simp] theorem State.raise_key (c : FaultCause) (w : Word) (a : Nat) : (s.raise c w a).key = s.key := rfl
@[simp] theorem State.raise_waitActive (c : FaultCause) (w : Word) (a : Nat) : (s.raise c w a).waitActive = s.waitActive := rfl
@[simp] theorem State.raise_keySnap (c : FaultCause) (w : Word) (a : Nat) : (s.raise c w a).keySnap = s.keySnap := rfl
@[simp] theorem State.raise_halted (c : FaultCause) (w : Word) (a : Nat) : (s.raise c w a).halted = true := rfl
@[simp] theorem State.raise_faultCause (c : FaultCause) (w : Word) (a : Nat) : (s.raise c w a).faultCause = c := rfl
@[simp] theorem State.raise_faultPC (c : FaultCause) (w : Word) (a : Nat) : (s.raise c w a).faultPC = s.pc := rfl
@[simp] theorem State.raise_faultWord (c : FaultCause) (w : Word) (a : Nat) : (s.raise c w a).faultWord = w := rfl
@[simp] theorem State.raise_faultAddr (c : FaultCause) (w : Word) (a : Nat) : (s.raise c w a).faultAddr = BitVec.ofNat 16 a := rfl
@[simp] theorem State.raise_params (c : FaultCause) (w : Word) (a : Nat) : (s.raise c w a).params = s.params := rfl
@[simp] theorem State.raise_draws (c : FaultCause) (w : Word) (a : Nat) : (s.raise c w a).draws = s.draws := rfl

/-! `push` -/

@[simp] theorem State.push_mem (w : Word) : (s.push w).mem = s.mem := by unfold State.push; split <;> rfl
@[simp] theorem State.push_v (w : Word) : (s.push w).v = s.v := by unfold State.push; split <;> rfl
@[simp] theorem State.push_i (w : Word) : (s.push w).i = s.i := by unfold State.push; split <;> rfl
@[simp] theorem State.push_pc (w : Word) : (s.push w).pc = s.pc := by unfold State.push; split <;> rfl
@[simp] theorem State.push_dt (w : Word) : (s.push w).dt = s.dt := by unfold State.push; split <;> rfl
@[simp] theorem State.push_st (w : Word) : (s.push w).st = s.st := by unfold State.push; split <;> rfl
@[simp] theorem State.push_fb (w : Word) : (s.push w).fb = s.fb := by unfold State.push; split <;> rfl
@[simp] theorem State.push_dirty (w : Word) : (s.push w).dirty = s.dirty := by unfold State.push; split <;> rfl
@[simp] theorem State.push_key (w : Word) : (s.push w).key = s.key := by unfold State.push; split <;> rfl
@[simp] theorem State.push_waitActive (w : Word) : (s.push w).waitActive = s.waitActive := by unfold State.push; split <;> rfl
@[simp] theorem State.push_keySnap (w : Word) : (s.push w).keySnap = s.keySnap := by unfold State.push; split <;> rfl
@[simp] theorem State.push_halted (w : Word) : (s.push w).halted = s.halted := by unfold State.push; split <;> rfl
@[simp] theorem State.push_faultCause (w : Word) : (s.push w).faultCause = s.faultCause := by unfold State.push; split <;> rfl
@[simp] theorem State.push_faultPC (w : Word) : (s.push w).faultPC = s.faultPC := by unfold State.push; split <;> rfl
@[simp] theorem State.push_faultWord (w : Word) : (s.push w).faultWord = s.faultWord := by unfold State.push; split <;> rfl
@[simp] theorem State.push_faultAddr (w : Word) : (s.push w).faultAddr = s.faultAddr := by unfold State.push; split <;> rfl
@[simp] theorem State.push_params (w : Word) : (s.push w).params = s.params := by unfold State.push; split <;> rfl
@[simp] theorem State.push_draws (w : Word) : (s.push w).draws = s.draws := by unfold State.push; split <;> rfl

/-! `writeFlagged` -/

@[simp] theorem State.writeFlagged_mem (x : Nibble) (f r : Byte) : (s.writeFlagged x f r).mem = s.mem := by unfold State.writeFlagged; split <;> rfl
@[simp] theorem State.writeFlagged_i (x : Nibble) (f r : Byte) : (s.writeFlagged x f r).i = s.i := by unfold State.writeFlagged; split <;> rfl
@[simp] theorem State.writeFlagged_pc (x : Nibble) (f r : Byte) : (s.writeFlagged x f r).pc = s.pc := by unfold State.writeFlagged; split <;> rfl
@[simp] theorem State.writeFlagged_stack (x : Nibble) (f r : Byte) : (s.writeFlagged x f r).stack = s.stack := by unfold State.writeFlagged; split <;> rfl
@[simp] theorem State.writeFlagged_sp (x : Nibble) (f r : Byte) : (s.writeFlagged x f r).sp = s.sp := by unfold State.writeFlagged; split <;> rfl
@[simp] theorem State.writeFlagged_dt (x : Nibble) (f r : Byte) : (s.writeFlagged x f r).dt = s.dt := by unfold State.writeFlagged; split <;> rfl
@[simp] theorem State.writeFlagged_st (x : Nibble) (f r : Byte) : (s.writeFlagged x f r).st = s.st := by unfold State.writeFlagged; split <;> rfl
@[simp] theorem State.writeFlagged_fb (x : Nibble) (f r : Byte) : (s.writeFlagged x f r).fb = s.fb := by unfold State.writeFlagged; split <;> rfl
@[simp] theorem State.writeFlagged_dirty (x : Nibble) (f r : Byte) : (s.writeFlagged x f r).dirty = s.dirty := by unfold State.writeFlagged; split <;> rfl
@[simp] theorem State.writeFlagged_key (x : Nibble) (f r : Byte) : (s.writeFlagged x f r).key = s.key := by unfold State.writeFlagged; split <;> rfl
@[simp] theorem State.writeFlagged_waitActive (x : Nibble) (f r : Byte) : (s.writeFlagged x f r).waitActive = s.waitActive := by unfold State.writeFlagged; split <;> rfl
@[simp] theorem State.writeFlagged_keySnap (x : Nibble) (f r : Byte) : (s.writeFlagged x f r).keySnap = s.keySnap := by unfold State.writeFlagged; split <;> rfl
@[simp] theorem State.writeFlagged_halted (x : Nibble) (f r : Byte) : (s.writeFlagged x f r).halted = s.halted := by unfold State.writeFlagged; split <;> rfl
@[simp] theorem State.writeFlagged_faultCause (x : Nibble) (f r : Byte) : (s.writeFlagged x f r).faultCause = s.faultCause := by unfold State.writeFlagged; split <;> rfl
@[simp] theorem State.writeFlagged_faultPC (x : Nibble) (f r : Byte) : (s.writeFlagged x f r).faultPC = s.faultPC := by unfold State.writeFlagged; split <;> rfl
@[simp] theorem State.writeFlagged_faultWord (x : Nibble) (f r : Byte) : (s.writeFlagged x f r).faultWord = s.faultWord := by unfold State.writeFlagged; split <;> rfl
@[simp] theorem State.writeFlagged_faultAddr (x : Nibble) (f r : Byte) : (s.writeFlagged x f r).faultAddr = s.faultAddr := by unfold State.writeFlagged; split <;> rfl
@[simp] theorem State.writeFlagged_params (x : Nibble) (f r : Byte) : (s.writeFlagged x f r).params = s.params := by unfold State.writeFlagged; split <;> rfl
@[simp] theorem State.writeFlagged_draws (x : Nibble) (f r : Byte) : (s.writeFlagged x f r).draws = s.draws := by unfold State.writeFlagged; split <;> rfl

/-! `hostSetKey` -/

@[simp] theorem hostSetKey_mem (k : Fin 16) (held : Bool) : (hostSetKey k held s).mem = s.mem := rfl
@[simp] theorem hostSetKey_v (k : Fin 16) (held : Bool) : (hostSetKey k held s).v = s.v := rfl
@[simp] theorem hostSetKey_i (k : Fin 16) (held : Bool) : (hostSetKey k held s).i = s.i := rfl
@[simp] theorem hostSetKey_pc (k : Fin 16) (held : Bool) : (hostSetKey k held s).pc = s.pc := rfl
@[simp] theorem hostSetKey_stack (k : Fin 16) (held : Bool) : (hostSetKey k held s).stack = s.stack := rfl
@[simp] theorem hostSetKey_sp (k : Fin 16) (held : Bool) : (hostSetKey k held s).sp = s.sp := rfl
@[simp] theorem hostSetKey_dt (k : Fin 16) (held : Bool) : (hostSetKey k held s).dt = s.dt := rfl
@[simp] theorem hostSetKey_st (k : Fin 16) (held : Bool) : (hostSetKey k held s).st = s.st := rfl
@[simp] theorem hostSetKey_fb (k : Fin 16) (held : Bool) : (hostSetKey k held s).fb = s.fb := rfl
@[simp] theorem hostSetKey_dirty (k : Fin 16) (held : Bool) : (hostSetKey k held s).dirty = s.dirty := rfl
@[simp] theorem hostSetKey_key (k : Fin 16) (held : Bool) : (hostSetKey k held s).key = s.key.set k held := rfl
@[simp] theorem hostSetKey_waitActive (k : Fin 16) (held : Bool) : (hostSetKey k held s).waitActive = s.waitActive := rfl
@[simp] theorem hostSetKey_keySnap (k : Fin 16) (held : Bool) : (hostSetKey k held s).keySnap = s.keySnap := rfl
@[simp] theorem hostSetKey_halted (k : Fin 16) (held : Bool) : (hostSetKey k held s).halted = s.halted := rfl
@[simp] theorem hostSetKey_faultCause (k : Fin 16) (held : Bool) : (hostSetKey k held s).faultCause = s.faultCause := rfl
@[simp] theorem hostSetKey_faultPC (k : Fin 16) (held : Bool) : (hostSetKey k held s).faultPC = s.faultPC := rfl
@[simp] theorem hostSetKey_faultWord (k : Fin 16) (held : Bool) : (hostSetKey k held s).faultWord = s.faultWord := rfl
@[simp] theorem hostSetKey_faultAddr (k : Fin 16) (held : Bool) : (hostSetKey k held s).faultAddr = s.faultAddr := rfl
@[simp] theorem hostSetKey_params (k : Fin 16) (held : Bool) : (hostSetKey k held s).params = s.params := rfl
@[simp] theorem hostSetKey_draws (k : Fin 16) (held : Bool) : (hostSetKey k held s).draws = s.draws := rfl

/-! `hostClearDirty` -/

@[simp] theorem hostClearDirty_mem : (hostClearDirty s).mem = s.mem := rfl
@[simp] theorem hostClearDirty_v : (hostClearDirty s).v = s.v := rfl
@[simp] theorem hostClearDirty_i : (hostClearDirty s).i = s.i := rfl
@[simp] theorem hostClearDirty_pc : (hostClearDirty s).pc = s.pc := rfl
@[simp] theorem hostClearDirty_stack : (hostClearDirty s).stack = s.stack := rfl
@[simp] theorem hostClearDirty_sp : (hostClearDirty s).sp = s.sp := rfl
@[simp] theorem hostClearDirty_dt : (hostClearDirty s).dt = s.dt := rfl
@[simp] theorem hostClearDirty_st : (hostClearDirty s).st = s.st := rfl
@[simp] theorem hostClearDirty_fb : (hostClearDirty s).fb = s.fb := rfl
@[simp] theorem hostClearDirty_dirty : (hostClearDirty s).dirty = false := rfl
@[simp] theorem hostClearDirty_key : (hostClearDirty s).key = s.key := rfl
@[simp] theorem hostClearDirty_waitActive : (hostClearDirty s).waitActive = s.waitActive := rfl
@[simp] theorem hostClearDirty_keySnap : (hostClearDirty s).keySnap = s.keySnap := rfl
@[simp] theorem hostClearDirty_halted : (hostClearDirty s).halted = s.halted := rfl
@[simp] theorem hostClearDirty_faultCause : (hostClearDirty s).faultCause = s.faultCause := rfl
@[simp] theorem hostClearDirty_faultPC : (hostClearDirty s).faultPC = s.faultPC := rfl
@[simp] theorem hostClearDirty_faultWord : (hostClearDirty s).faultWord = s.faultWord := rfl
@[simp] theorem hostClearDirty_faultAddr : (hostClearDirty s).faultAddr = s.faultAddr := rfl
@[simp] theorem hostClearDirty_params : (hostClearDirty s).params = s.params := rfl
@[simp] theorem hostClearDirty_draws : (hostClearDirty s).draws = s.draws := rfl

/-! `hostTick` -/

@[simp] theorem hostTick_mem : (hostTick s).1.mem = s.mem := by unfold hostTick; split <;> rfl
@[simp] theorem hostTick_v : (hostTick s).1.v = s.v := by unfold hostTick; split <;> rfl
@[simp] theorem hostTick_i : (hostTick s).1.i = s.i := by unfold hostTick; split <;> rfl
@[simp] theorem hostTick_pc : (hostTick s).1.pc = s.pc := by unfold hostTick; split <;> rfl
@[simp] theorem hostTick_stack : (hostTick s).1.stack = s.stack := by unfold hostTick; split <;> rfl
@[simp] theorem hostTick_sp : (hostTick s).1.sp = s.sp := by unfold hostTick; split <;> rfl
theorem hostTick_dt : (hostTick s).1.dt = if s.halted then s.dt else countDown s.dt := by
  unfold hostTick; split <;> rfl
theorem hostTick_st : (hostTick s).1.st = if s.halted then s.st else countDown s.st := by
  unfold hostTick; split <;> rfl
@[simp] theorem hostTick_fb : (hostTick s).1.fb = s.fb := by unfold hostTick; split <;> rfl
@[simp] theorem hostTick_dirty : (hostTick s).1.dirty = s.dirty := by unfold hostTick; split <;> rfl
@[simp] theorem hostTick_key : (hostTick s).1.key = s.key := by unfold hostTick; split <;> rfl
@[simp] theorem hostTick_waitActive : (hostTick s).1.waitActive = s.waitActive := by unfold hostTick; split <;> rfl
@[simp] theorem hostTick_keySnap : (hostTick s).1.keySnap = s.keySnap := by unfold hostTick; split <;> rfl
@[simp] theorem hostTick_halted : (hostTick s).1.halted = s.halted := by unfold hostTick; split <;> rfl
@[simp] theorem hostTick_faultCause : (hostTick s).1.faultCause = s.faultCause := by unfold hostTick; split <;> rfl
@[simp] theorem hostTick_faultPC : (hostTick s).1.faultPC = s.faultPC := by unfold hostTick; split <;> rfl
@[simp] theorem hostTick_faultWord : (hostTick s).1.faultWord = s.faultWord := by unfold hostTick; split <;> rfl
@[simp] theorem hostTick_faultAddr : (hostTick s).1.faultAddr = s.faultAddr := by unfold hostTick; split <;> rfl
@[simp] theorem hostTick_params : (hostTick s).1.params = s.params := by unfold hostTick; split <;> rfl
@[simp] theorem hostTick_draws : (hostTick s).1.draws = s.draws := by unfold hostTick; split <;> rfl

end Sys2Proof.Machine
end

