-- ==== Sys2Proof/Laws/Memory.lean ====
section
/-!
SUPPORT. The laws of memory: read after write, and that every memory operation keeps the canonical form.
-/

namespace Sys2Proof.Machine

open Sys2Proof

variable (p : Config.Params)

/-! ### Read after write -/

theorem Memory.read_nil (a : Nat) : Memory.read p [] a = Memory.unlisted p a := rfl

theorem Memory.read_insert_same (m : Memory) (a : Nat) (b : Byte) :
    Memory.read p (Memory.insert m a b) a = b := by
  induction m with
  | nil => simp [Memory.insert, Memory.read]
  | cons c m ih =>
    simp only [Memory.insert]
    split
    · simp [Memory.read]
    · split
      · simp [Memory.read]
      · simp only [Memory.read]
        split
        · omega
        · exact ih

theorem Memory.read_insert_other (m : Memory) {a a' : Nat} (b : Byte) (h : a' ≠ a) :
    Memory.read p (Memory.insert m a b) a' = Memory.read p m a' := by
  induction m with
  | nil => simp [Memory.insert, Memory.read, Ne.symm h]
  | cons c m ih =>
    simp only [Memory.insert]
    split
    · simp [Memory.read, Ne.symm h]
    · split
      · rename_i hac
        simp [Memory.read, Ne.symm h, ← hac]
      · simp only [Memory.read, ih]

/-- An address below every listed one is unlisted. -/
theorem Memory.read_below {m : Memory} {a : Nat} (h : ∀ c ∈ m, a < c.1) :
    Memory.read p m a = Memory.unlisted p a := by
  induction m with
  | nil => rfl
  | cons c m ih =>
    have hc : a < c.1 := h c List.mem_cons_self
    simp only [Memory.read]
    split
    · omega
    · exact ih fun d hd => h d (List.mem_cons_of_mem _ hd)

theorem Memory.read_erase_same {m : Memory} (h : m.Pairwise (fun c d => c.1 < d.1)) (a : Nat) :
    Memory.read p (Memory.erase m a) a = Memory.unlisted p a := by
  induction m with
  | nil => rfl
  | cons c m ih =>
    rw [List.pairwise_cons] at h
    simp only [Memory.erase]
    split
    · rename_i hk
      exact Memory.read_below p fun d hd => hk ▸ h.1 d hd
    · rename_i hk
      simp only [Memory.read, hk, if_false]
      exact ih h.2

theorem Memory.read_erase_other (m : Memory) {a a' : Nat} (h : a' ≠ a) :
    Memory.read p (Memory.erase m a) a' = Memory.read p m a' := by
  induction m with
  | nil => rfl
  | cons c m ih =>
    simp only [Memory.erase]
    split
    · rename_i hk
      have : c.1 ≠ a' := by omega
      simp [Memory.read, this]
    · simp only [Memory.read, ih]

/-- A write leaves every other address alone, in every memory. -/
theorem Memory.read_write_other (m : Memory) {a a' : Nat} (b : Byte) (h : a' ≠ a) :
    Memory.read p (Memory.write p m a b) a' = Memory.read p m a' := by
  unfold Memory.write
  split
  · exact Memory.read_erase_other p m h
  · exact Memory.read_insert_other p m b h

/-- A read of the written address gives the written byte, in a canonical memory. -/
theorem Memory.read_write_same {m : Memory} (hm : Memory.wf p m) (a : Nat) (b : Byte) :
    Memory.read p (Memory.write p m a b) a = b := by
  unfold Memory.write
  split
  · rename_i hb
    rw [Memory.read_erase_same p hm.1, hb]
  · exact Memory.read_insert_same p m a b

/-! ### The canonical form -/

theorem Memory.wf_nil : Memory.wf p [] := by simp [Memory.wf]

theorem Memory.mem_insert {m : Memory} {a : Nat} {b : Byte} {c : Host.Cell}
    (h : c ∈ Memory.insert m a b) : c = (a, b) ∨ c ∈ m := by
  induction m with
  | nil => simpa [Memory.insert] using h
  | cons d m ih =>
    simp only [Memory.insert] at h
    split at h
    · simpa using h
    · split at h
      · rcases List.mem_cons.1 h with h | h
        · exact .inl h
        · exact .inr (List.mem_cons_of_mem _ h)
      · rcases List.mem_cons.1 h with h | h
        · exact .inr (h ▸ List.mem_cons_self)
        · exact (ih h).imp id (List.mem_cons_of_mem _)

theorem Memory.mem_erase {m : Memory} {a : Nat} {c : Host.Cell} (h : c ∈ Memory.erase m a) : c ∈ m := by
  induction m with
  | nil => exact h
  | cons d m ih =>
    simp only [Memory.erase] at h
    split at h
    · exact List.mem_cons_of_mem _ h
    · rcases List.mem_cons.1 h with h | h
      · exact h ▸ List.mem_cons_self
      · exact List.mem_cons_of_mem _ (ih h)

theorem Memory.rising_insert {m : Memory} (h : m.Pairwise (fun c d => c.1 < d.1)) (a : Nat) (b : Byte) :
    (Memory.insert m a b).Pairwise (fun c d => c.1 < d.1) := by
  induction m with
  | nil => simp [Memory.insert]
  | cons c m ih =>
    have hc := List.pairwise_cons.1 h
    simp only [Memory.insert]
    split
    · rename_i hlt
      refine List.pairwise_cons.2 ⟨fun d hd => ?_, h⟩
      rcases List.mem_cons.1 hd with hd | hd
      · simpa [hd] using hlt
      · exact Nat.lt_trans hlt (hc.1 d hd)
    · split
      · rename_i heq
        exact List.pairwise_cons.2 ⟨fun d hd => by simpa [heq] using hc.1 d hd, hc.2⟩
      · refine List.pairwise_cons.2 ⟨fun d hd => ?_, ih hc.2⟩
        rcases Memory.mem_insert hd with hd | hd
        · simp only [hd]; omega
        · exact hc.1 d hd

theorem Memory.rising_erase {m : Memory} (h : m.Pairwise (fun c d => c.1 < d.1)) (a : Nat) :
    (Memory.erase m a).Pairwise (fun c d => c.1 < d.1) := by
  induction m with
  | nil => exact h
  | cons c m ih =>
    have hc := List.pairwise_cons.1 h
    simp only [Memory.erase]
    split
    · exact hc.2
    · exact List.pairwise_cons.2 ⟨fun d hd => hc.1 d (Memory.mem_erase hd), ih hc.2⟩

/-- A write inside the 4096 bytes keeps the canonical form. -/
theorem Memory.wf_write {m : Memory} (hm : Memory.wf p m) {a : Nat} (ha : a < Config.memSize) (b : Byte) :
    Memory.wf p (Memory.write p m a b) := by
  unfold Memory.write
  split
  · exact ⟨Memory.rising_erase hm.1 a, fun c hc => hm.2 c (Memory.mem_erase hc)⟩
  · rename_i hb
    refine ⟨Memory.rising_insert hm.1 a b, fun c hc => ?_⟩
    rcases Memory.mem_insert hc with hc | hc
    · subst hc; exact ⟨ha, hb⟩
    · exact hm.2 c hc

/-- A run of writes inside the 4096 bytes keeps the canonical form. -/
theorem Memory.wf_writeRun {m : Memory} (hm : Memory.wf p m) (a : Nat) (bs : List Byte)
    (h : bs = [] ∨ a + bs.length ≤ Config.memSize) : Memory.wf p (Memory.writeRun p m a bs) := by
  induction bs generalizing m a with
  | nil => exact hm
  | cons b bs ih =>
    have hle : a + (bs.length + 1) ≤ Config.memSize := by simpa using h
    exact ih (Memory.wf_write p hm (by omega) b) (a + 1) (.inr (by omega))

/-! ### Runs -/

/-- A run of writes leaves every address outside it alone, in every memory. -/
theorem Memory.read_writeRun_other (m : Memory) (a : Nat) (bs : List Byte) {a' : Nat}
    (h : a' < a ∨ a + bs.length ≤ a') :
    Memory.read p (Memory.writeRun p m a bs) a' = Memory.read p m a' := by
  induction bs generalizing m a with
  | nil => rfl
  | cons b bs ih =>
    simp only [List.length_cons] at h
    simp only [Memory.writeRun]
    rw [ih _ (a + 1) (by omega), Memory.read_write_other p m b (by omega)]

/-- The k-th address of a run of writes inside the 4096 bytes reads as the k-th byte, in a canonical memory. -/
theorem Memory.read_writeRun_inside {m : Memory} (hm : Memory.wf p m) (a : Nat) (bs : List Byte)
    (hfit : a + bs.length ≤ Config.memSize) (k : Nat) (hk : k < bs.length) :
    Memory.read p (Memory.writeRun p m a bs) (a + k) = bs[k] := by
  induction bs generalizing m a k with
  | nil => simp at hk
  | cons b bs ih =>
    simp only [List.length_cons] at hfit hk
    have hw : Memory.wf p (Memory.write p m a b) := Memory.wf_write p hm (by omega) b
    simp only [Memory.writeRun]
    cases k with
    | zero =>
      rw [Memory.read_writeRun_other p _ _ _ (.inl (by omega))]
      exact Memory.read_write_same p hm a b
    | succ k =>
      have := ih hw (a + 1) (by omega) k (by omega)
      simpa [Nat.add_assoc, Nat.add_comm 1 k] using this

theorem Memory.length_readRun (m : Memory) (a n : Nat) : (Memory.readRun p m a n).length = n := by
  induction n generalizing a with
  | zero => rfl
  | succ n ih => simp [Memory.readRun, ih]

/-- The k-th byte of a run of reads is the byte at its k-th address. -/
theorem Memory.getElem_readRun (m : Memory) (a n k : Nat) (hk : k < (Memory.readRun p m a n).length) :
    (Memory.readRun p m a n)[k] = Memory.read p m (a + k) := by
  induction n generalizing a k with
  | zero => simp [Memory.readRun] at hk
  | succ n ih =>
    cases k with
    | zero => rfl
    | succ k =>
      simp only [Memory.readRun, List.getElem_cons_succ]
      rw [ih (a + 1) k]
      congr 1
      omega

/-! ### The same, for the state's memory -/

theorem State.readByte_storeRun_other (s : State) (a : Nat) (bs : List Byte) {a' : Nat}
    (h : a' < a ∨ a + bs.length ≤ a') : (s.storeRun a bs).readByte a' = s.readByte a' :=
  Memory.read_writeRun_other s.params s.mem a bs h

theorem State.readByte_storeRun_inside (s : State) (hm : Memory.wf s.params s.mem) (a : Nat) (bs : List Byte)
    (hfit : a + bs.length ≤ Config.memSize) (k : Nat) (hk : k < bs.length) :
    (s.storeRun a bs).readByte (a + k) = bs[k] :=
  Memory.read_writeRun_inside s.params hm a bs hfit k hk

theorem State.length_loadRun (s : State) (a n : Nat) : (s.loadRun a n).length = n :=
  Memory.length_readRun s.params s.mem a n

theorem State.getElem_loadRun (s : State) (a n k : Nat) (hk : k < (s.loadRun a n).length) :
    (s.loadRun a n)[k] = s.readByte (a + k) :=
  Memory.getElem_readRun s.params s.mem a n k hk

end Sys2Proof.Machine
end

