-- ==== Sys2Proof/Laws/Ops.lean ====
section
/-!
SUPPORT. One lemma per shared operation: what it can do, said once, for later proofs to cite.
-/

namespace Sys2Proof.Machine

open Sys2Proof

variable (s : State)

/-! ### Registers -/

theorem regIndex_inj {x y : Nibble} : regIndex x = regIndex y ↔ x = y :=
  BitVec.toFin_inj

theorem reg_eq_getElem (x : Nibble) : s.reg x = s.v[x.toNat] := rfl

/-- Two states with the same `V` read the same registers. -/
theorem reg_congr {s t : State} (h : t.v = s.v) (k : Nibble) : t.reg k = s.reg k := by
  simp [State.reg, h]

/-- A write to `V[x]` is read back at `x` and nowhere else (R21: no register aliases another). -/
theorem reg_setReg (x k : Nibble) (b : Byte) : (s.setReg x b).reg k = if k = x then b else s.reg k := by
  simp only [State.reg, State.setReg_v, Fin.getElem_fin, Vector.getElem_set]
  by_cases h : k = x
  · simp [h]
  · have : (regIndex x).val ≠ (regIndex k).val := fun e => h (regIndex_inj.1 (Fin.ext e.symm))
    simp [h, this]

/-- A flag-and-result write in either order: only the order decides `VF` when the destination is `VF` (R143). -/
theorem reg_writeFlagged (x k : Nibble) (f r : Byte) :
    (s.writeFlagged x f r).reg k =
      if k = vf ∧ (x ≠ vf ∨ s.params.vfDestOrder = .flagLast) then f
      else if k = x then r else s.reg k := by
  unfold State.writeFlagged
  cases hp : s.params.vfDestOrder <;> simp only [reg_setReg] <;> by_cases hk : k = vf <;> by_cases hx : x = vf <;>
    by_cases hkx : k = x <;> simp_all

/-- The k-th register after a run of register writes. -/
theorem getElem_writeRegs (v : Vector Byte 16) (j : Nat) (bs : List Byte) (k : Nat) (hk : k < 16) :
    (writeRegs v j bs)[k] = if h : j ≤ k ∧ k - j < bs.length then bs[k - j] else v[k] := by
  induction bs generalizing v j with
  | nil => simp [writeRegs]
  | cons b bs ih =>
    simp only [writeRegs, ih, List.length_cons]
    by_cases hj : j = k
    · subst hj
      simp
    · by_cases hlt : j ≤ k
      · have e : k - j = (k - (j + 1)) + 1 := by omega
        by_cases hin : k - (j + 1) < bs.length
        · rw [dif_pos ⟨by omega, hin⟩, dif_pos ⟨hlt, by omega⟩]
          simp [e]
        · rw [dif_neg (by omega), dif_neg (by omega)]
          simp [hj]
      · rw [dif_neg (by omega), dif_neg (by omega)]
        simp [hj]

/-- `V[0..x]` as a list has `x + 1` bytes. -/
theorem length_regsUpTo (x : Nibble) : (s.regsUpTo x).length = x.toNat + 1 := by
  have := x.isLt
  simp [State.regsUpTo]
  omega

theorem getElem_regsUpTo (x : Nibble) (k : Nat) (hk : k < (s.regsUpTo x).length) :
    (s.regsUpTo x)[k] = s.v[k]'(by rw [length_regsUpTo] at hk; have := x.isLt; omega) := by
  simp [State.regsUpTo]

/-- What a write to `I` keeps fits its width (R23). -/
theorem indexOf_toNat (p : Config.Params) (a : Nat) : (indexOf p a).toNat = a % 2 ^ p.iWidth.bits := by
  have : a % 2 ^ p.iWidth.bits < 2 ^ 16 := by
    cases p.iWidth <;> simp only [Config.IWidth.bits] <;> omega
  rw [indexOf, BitVec.toNat_ofNat, Nat.mod_eq_of_lt this]

/-! ### Stack -/

theorem push_stack (w : Word) (h : s.sp.val < 16) : (s.push w).stack = s.stack.set s.sp.val w := by
  simp [State.push, h]

theorem push_sp (w : Word) (h : s.sp.val < 16) : (s.push w).sp.val = s.sp.val + 1 := by
  simp [State.push, h]

theorem spDown_val : s.spDown.val = s.sp.val - 1 := rfl

theorem top_eq (h : s.sp.val - 1 < 16) : s.top = s.stack[s.sp.val - 1] := rfl

/-! ### Faults, fetch, runs -/

/-- A checked run answers the given state, or the fault entry of `MEMORY_BOUNDS` (R52, R222). -/
theorem afterRun_cases (w : Word) (a n : Nat) (t : State) :
    ((n = 0 ∨ a + n ≤ 4096) ∧ s.afterRun w a n t = t) ∨
    ((n ≠ 0 ∧ 4096 < a + n) ∧ s.afterRun w a n t = s.raise .memoryBounds w (max a 0x1000)) := by
  unfold State.afterRun runFits lowestOutside
  by_cases h : n = 0 ∨ a + n ≤ 4096
  · exact .inl ⟨h, if_pos (decide_eq_true h)⟩
  · exact .inr ⟨by omega, if_neg fun hd => h (of_decide_eq_true hd)⟩

/-- The cycle driver up to dispatch, its checks in the order of R224. -/
theorem fetchDecode_cases :
    (s.halted = true ∧ s.fetchDecode = .error s) ∨
    (s.halted = false ∧ ¬ s.pc.toNat + 1 < 4096 ∧
      s.fetchDecode = .error (s.raise .memoryBounds 0 (max s.pc.toNat 0x1000))) ∨
    (s.halted = false ∧ s.pc.toNat + 1 < 4096 ∧ ∃ e, decodeWord s.fetchWord = .error e ∧
      s.fetchDecode = .error (s.raise .illegalInstruction s.fetchWord 0)) ∨
    (s.halted = false ∧ s.pc.toNat + 1 < 4096 ∧ ∃ i, decodeWord s.fetchWord = .ok i ∧
      s.fetchDecode = .ok i) := by
  unfold State.fetchDecode State.fetchFits lowestOutside
  cases hh : s.halted with
  | true => simp
  | false =>
    by_cases hf : s.pc.toNat + 1 < 4096
    · cases hd : decodeWord s.fetchWord <;> simp [Config.memSize, hf]
    · simp [Config.memSize, hf]

/-- Every instruction answers a next state: `exec` neither faults nor refuses (R220: a fault is a next state that
holds the record). -/
theorem exec_next (i : Instr) : ∃ t, exec i s = .next t := by
  cases i <;> exact ⟨_, rfl⟩

/-- A key skip either faults with `KEY_INDEX` or moves only `PC`. -/
theorem keySkip_cases (w : Word) (k : Option (Fin 16)) (level : Bool) :
    (k = none ∧ s.keySkip w k level = s.raise .keyIndex w 0) ∨
    (∃ j, k = some j ∧ s.keySkip w k level = s.skipIf (s.key[j] == level)) := by
  cases k with
  | none => exact .inl ⟨rfl, rfl⟩
  | some j => exact .inr ⟨j, rfl, rfl⟩

theorem keyOfByte_some {b : Byte} (h : b.toNat < 16) : keyOfByte b = some ⟨b.toNat, h⟩ := by
  simp [keyOfByte, h]

theorem keyOfByte_none {b : Byte} (h : ¬ b.toNat < 16) : keyOfByte b = none := by
  simp [keyOfByte, h]

/-- The key a completed wait stores is newly held, and no lower one is (R202, D10). -/
theorem newlyHeld_some {keys snap : Vector Bool 16} {k : Fin 16} (h : newlyHeld keys snap = some k) :
    (keys[k] = true ∧ snap[k] = false) ∧ ∀ j < k, ¬ (keys[j] = true ∧ snap[j] = false) := by
  unfold newlyHeld at h
  rw [List.find?_eq_some_iff_getElem] at h
  obtain ⟨hp, n, hn, hk, hlow⟩ := h
  simp only [List.length_finRange] at hn
  simp only [List.getElem_finRange] at hk hlow
  refine ⟨by simpa using hp, fun j hj => ?_⟩
  have hkn : k.val = n := by rw [← hk]; rfl
  have := hlow j.val (by omega)
  rintro ⟨h1, h2⟩
  simp_all

/-- No key is newly held when the search finds none (R202). -/
theorem newlyHeld_none {keys snap : Vector Bool 16} (h : newlyHeld keys snap = none) (k : Fin 16) :
    ¬ (keys[k] = true ∧ snap[k] = false) := by
  unfold newlyHeld at h
  rw [List.find?_eq_none] at h
  simpa using h k (List.mem_finRange k)

/-! ### Drawing -/

theorem cellIndex_inj {p q : Fin 64 × Fin 32} : cellIndex p.1 p.2 = cellIndex q.1 q.2 ↔ p = q := by
  constructor
  · intro h
    have := Fin.ext_iff.1 h
    simp only [cellIndex] at this
    exact Prod.ext (Fin.ext (by omega)) (Fin.ext (by omega))
  · rintro rfl; rfl

/-- A flip inverts its cell and no other (R182). -/
theorem getElem_flipCell (k j : Fin 2048) (cv : Canvas) :
    (flipCell k cv).fb[j] = if j = k then !cv.fb[j] else cv.fb[j] := by
  simp only [flipCell, Fin.getElem_fin, Vector.getElem_set]
  by_cases h : j = k
  · simp [h]
  · have : k.val ≠ j.val := fun e => h (Fin.ext e.symm)
    simp [h, this]

/-- A flip collides exactly when its cell was set (R185). -/
theorem collided_flipCell (k : Fin 2048) (cv : Canvas) :
    (flipCell k cv).collided = (cv.collided || cv.fb[k]) := rfl

/-- One sprite bit flips one placed cell, or leaves the canvas alone. -/
theorem drawBit_cases (edge : Config.DrawEdge) (x0 y : Nat) (row : Byte) (cv : Canvas) (c : Nat) :
    (∃ q, row.getLsbD (7 - c) = true ∧ place edge (x0 + c) y = some q ∧
      drawBit edge x0 y row cv c = flipCell (cellIndex q.1 q.2) cv) ∨
    (¬ (row.getLsbD (7 - c) = true ∧ ∃ q, place edge (x0 + c) y = some q) ∧
      drawBit edge x0 y row cv c = cv) := by
  unfold drawBit
  by_cases hb : row.getLsbD (7 - c) = true
  · cases hp : place edge (x0 + c) y with
    | none => exact .inr ⟨by simp, by simp [hb]⟩
    | some q => exact .inl ⟨q, hb, rfl, by simp [hb]⟩
  · exact .inr ⟨by simp [hb], by simp [hb]⟩

/-! ### Host operations -/

/-- A step with a given random byte answers a next state. -/
theorem stepWith_next (r : Byte) : ∃ t, stepWith r s = .next t := by
  unfold stepWith
  split
  · exact ⟨_, rfl⟩
  · exact exec_next s _
  · exact ⟨_, rfl⟩

/-- `step` is `stepWith` the free byte of the next draw (R90, R97). -/
theorem step_eq_stepWith : step s = stepWith s.rand8 s := by
  unfold step stepWith
  cases s.fetchDecode with
  | error t => rfl
  | ok i => cases i <;> rfl

theorem countDown_toNat (b : Byte) : (countDown b).toNat = b.toNat - 1 := by
  unfold countDown
  split
  · simp_all
  · rename_i h
    have : 0 < b.toNat := Nat.pos_of_ne_zero fun e => h (BitVec.eq_of_toNat_eq (by simpa using e))
    have hle : (1 : Byte) ≤ b := BitVec.le_def.2 (by simpa using Nat.succ_le_of_lt this)
    rw [BitVec.toNat_sub_of_le hle]
    rfl

end Sys2Proof.Machine
end

