-- ==== Sys2Proof/Laws/PerInstr.lean ====
section
/-!
SUPPORT. Claims about every instruction as syntax, one lemma per constructor. Family `EncodeMatches`: the word of an
instruction is one its own row of the opcode table matches (30_encoding.md R75).
-/

namespace Sys2Proof.Laws.EncodeMatches

open Sys2Proof

/-- `(w & mask) == match` for the word of the instruction and its own row (R75). -/
def Statement (i : Instr) : Prop := i.row.matchesWord (encode i) = true

theorem cls : Statement .cls := rfl
theorem ret : Statement .ret := rfl
theorem jp (nnn : Addr) : Statement (.jp nnn) := OpcodeRow.matches_nnn _ _ _ rfl
theorem call (nnn : Addr) : Statement (.call nnn) := OpcodeRow.matches_nnn _ _ _ rfl
theorem seImm (x : Nibble) (nn : Byte) : Statement (.seImm x nn) := OpcodeRow.matches_xnn _ _ _ _ rfl
theorem sneImm (x : Nibble) (nn : Byte) : Statement (.sneImm x nn) := OpcodeRow.matches_xnn _ _ _ _ rfl
theorem seReg (x y : Nibble) : Statement (.seReg x y) := OpcodeRow.matches_xys _ _ _ _ _ rfl
theorem ldImm (x : Nibble) (nn : Byte) : Statement (.ldImm x nn) := OpcodeRow.matches_xnn _ _ _ _ rfl
theorem addImm (x : Nibble) (nn : Byte) : Statement (.addImm x nn) := OpcodeRow.matches_xnn _ _ _ _ rfl
theorem ldReg (x y : Nibble) : Statement (.ldReg x y) := OpcodeRow.matches_xys _ _ _ _ _ rfl
theorem orReg (x y : Nibble) : Statement (.orReg x y) := OpcodeRow.matches_xys _ _ _ _ _ rfl
theorem andReg (x y : Nibble) : Statement (.andReg x y) := OpcodeRow.matches_xys _ _ _ _ _ rfl
theorem xorReg (x y : Nibble) : Statement (.xorReg x y) := OpcodeRow.matches_xys _ _ _ _ _ rfl
theorem addReg (x y : Nibble) : Statement (.addReg x y) := OpcodeRow.matches_xys _ _ _ _ _ rfl
theorem sub (x y : Nibble) : Statement (.sub x y) := OpcodeRow.matches_xys _ _ _ _ _ rfl
theorem shr (x y : Nibble) : Statement (.shr x y) := OpcodeRow.matches_xys _ _ _ _ _ rfl
theorem subn (x y : Nibble) : Statement (.subn x y) := OpcodeRow.matches_xys _ _ _ _ _ rfl
theorem shl (x y : Nibble) : Statement (.shl x y) := OpcodeRow.matches_xys _ _ _ _ _ rfl
theorem sneReg (x y : Nibble) : Statement (.sneReg x y) := OpcodeRow.matches_xys _ _ _ _ _ rfl
theorem ldI (nnn : Addr) : Statement (.ldI nnn) := OpcodeRow.matches_nnn _ _ _ rfl
theorem jpV0 (nnn : Addr) : Statement (.jpV0 nnn) := OpcodeRow.matches_nnn _ _ _ rfl
theorem rnd (x : Nibble) (nn : Byte) : Statement (.rnd x nn) := OpcodeRow.matches_xnn _ _ _ _ rfl
theorem drw (x y n : Nibble) : Statement (.drw x y n) := OpcodeRow.matches_xyn _ _ _ _ _ rfl
theorem skp (x : Nibble) : Statement (.skp x) := OpcodeRow.matches_xss _ _ _ _ rfl
theorem sknp (x : Nibble) : Statement (.sknp x) := OpcodeRow.matches_xss _ _ _ _ rfl
theorem ldVxDt (x : Nibble) : Statement (.ldVxDt x) := OpcodeRow.matches_xss _ _ _ _ rfl
theorem ldVxK (x : Nibble) : Statement (.ldVxK x) := OpcodeRow.matches_xss _ _ _ _ rfl
theorem ldDtVx (x : Nibble) : Statement (.ldDtVx x) := OpcodeRow.matches_xss _ _ _ _ rfl
theorem ldStVx (x : Nibble) : Statement (.ldStVx x) := OpcodeRow.matches_xss _ _ _ _ rfl
theorem addI (x : Nibble) : Statement (.addI x) := OpcodeRow.matches_xss _ _ _ _ rfl
theorem ldF (x : Nibble) : Statement (.ldF x) := OpcodeRow.matches_xss _ _ _ _ rfl
theorem ldB (x : Nibble) : Statement (.ldB x) := OpcodeRow.matches_xss _ _ _ _ rfl
theorem ldMemStore (x : Nibble) : Statement (.ldMemStore x) := OpcodeRow.matches_xss _ _ _ _ rfl
theorem ldMemLoad (x : Nibble) : Statement (.ldMemLoad x) := OpcodeRow.matches_xss _ _ _ _ rfl

end Sys2Proof.Laws.EncodeMatches
end

