-- ==== Sys2Proof/Laws/Safety.lean ====
section
/-!
SUPPORT. The key wait and the host's moves, each said once, for later proofs to cite.
-/

namespace Sys2Proof.Safety

open Sys2Proof.Machine

variable {s : State}

/-- The next step fetches `FX0A`. -/
theorem atKeyWait_of_decode {x : Nibble} (hf : s.fetchFits = true) (hd : decodeWord s.fetchWord = .ok (.ldVxK x)) :
    atKeyWait s = true := by
  simp only [atKeyWait, hf, hd, Bool.true_and]

/-- The next step fetches another instruction. -/
theorem not_atKeyWait_of_decode {i : Instr} (hi : ∀ x, i ≠ .ldVxK x) (hd : decodeWord s.fetchWord = .ok i) :
    atKeyWait s = false := by
  simp only [atKeyWait, hd]
  cases i <;> first | exact Bool.and_false _ | exact absurd rfl (hi _)

/-- What a state at an `FX0A` fetches. -/
theorem decode_of_atKeyWait (h : atKeyWait s = true) :
    s.pc.toNat + 1 < 4096 ∧ ∃ x, decodeWord s.fetchWord = .ok (.ldVxK x) := by
  simp only [atKeyWait, Bool.and_eq_true] at h
  refine ⟨of_decide_eq_true h.1, ?_⟩
  have h2 := h.2
  split at h2
  · rename_i x hx
    exact ⟨x, hx⟩
  · cases h2

/-- What `load` does as a move: the image is copied, or nothing changes (R262, R263). -/
theorem moveLoad_cases {x y : Session} {image : List Byte} {r : Reply} (h : x.move (.load image) = some (y, r)) :
    (x.phase = .loadable ∨ x.phase = .loadRefused) ∧
    ((y.core = x.core.storeRun 0x200 image ∧ image.length ≤ 3584) ∨ (y.core = x.core ∧ 3584 < image.length)) := by
  have hfit : WellFormed.imageFits image = decide (image.length ≤ 3584) := rfl
  simp only [Session.move, Session.moveLoad, hostLoad, hfit] at h
  by_cases hl : image.length ≤ 3584
  · rw [if_pos (by simp [hl])] at h
    cases hp : x.phase <;> simp [hp] at h <;> obtain ⟨h, _⟩ := h <;> subst h <;> simp [hl] <;> exact .inl rfl
  · rw [if_neg (by simp [hl])] at h
    cases hp : x.phase <;> simp [hp] at h <;> obtain ⟨h, _⟩ := h <;> subst h <;> simp <;> right <;> omega

/-- A move that the host may make after any reset changes the core as said and keeps the phase (R267). -/
theorem afterReset_some {x y : Session} {t : State} {q r : Reply} (h : x.afterReset (t, q) = some (y, r)) :
    y.core = t ∧ y.phase = x.phase ∧ r = q := by
  unfold Session.afterReset at h
  split at h
  · cases h
  all_goals
    cases h
    exact ⟨rfl, rfl, rfl⟩

end Sys2Proof.Safety
end

