-- ==== Sys2Proof/Tests/Slice0.lean ====
section
/-!
SUPPORT. The author's tests: checks of what the host hands over, one decoded word per instruction, the spec's test
vectors (95_test_vectors.md E1-E11, V1-V85) one step at a time, and a witness for the hypotheses of every statement.
Every expected value is the spec's, named in the docstring.
-/

namespace Sys2Proof.Tests

open Sys2Proof Sys2Proof.Machine Sys2Proof.Safety Sys2Proof.Claims

set_option maxRecDepth 20000

/-! ### Small states -/

/-- The state with instruction word `w` at its `PC`. -/
def ready (w : Nat) (s : State) : State := s.withFetchWord 16 w

/-- The state with the listed registers set. -/
def regs (l : List (Nibble × Byte)) (s : State) : State := l.foldl (fun t p => t.setReg p.1 p.2) s

/-- The state with the listed cells set. -/
def lit (l : List (Fin 64 × Fin 32)) (s : State) : State :=
  l.foldl (fun t p => { t with fb := t.fb.set (cellIndex p.1 p.2) true }) s

/-- The state with the listed keys held. -/
def holding (l : List (Fin 16)) (s : State) : State := l.foldl (fun t k => hostSetKey k true t) s

/-- The reset state with `PC`. -/
def atPc (pc : Word) : State := { State.reset with pc := pc }

/-- The reset state with `I`. -/
def atI (i : Word) : State := { State.reset with i := i }

/-- The reset state with `SP` and every stack entry `w`. -/
def atSp (n : Fin 17) (w : Word) : State := { State.reset with sp := n, stack := Vector.replicate 16 w }

/-- The state under the other setting of every parameter but `I_WIDTH`. -/
def otherwise (s : State) : State :=
  { s with params := { s.params with drawEdge := .clip, exa1Mode := .dereference, vfDestOrder := .flagLast } }

/-- The state with `I_WIDTH = 12`. -/
def narrow (s : State) : State := { s with params := { s.params with iWidth := .w12 } }

/-- The state halted by an illegal instruction, with `DT = 5`. -/
def halted : State := { State.reset with halted := true, faultCause := .illegalInstruction, dt := 5 }

/-- The state waiting for a key at an `F20A` with a snapshot. -/
def waiting (snap : List (Fin 16)) : State :=
  { ready 0xF20A State.reset with waitActive := true, keySnap := (holding snap State.reset).key }

/-- Whether an outcome is a next state that meets `p`. -/
def gives (o : Host.Outcome State Fault Refusal) (p : State → Bool) : Bool :=
  match o with
  | .next t    => p t
  | .fault _   => false
  | .refused _ => false

/-- `Fault(c, A)` of 95_test_vectors.md: the record, and the rest of the state unchanged. -/
def faults (s : State) (code : BitVec 3) (word addr : Word) : Bool :=
  gives (step s) fun t =>
    t.halted && t.faultCause.code == code && t.faultPC == s.pc && t.faultWord == word && t.faultAddr == addr &&
      t.pc == s.pc && t.sp == s.sp && t.v == s.v && t.i == s.i && t.mem == s.mem && t.dirty == s.dirty

/-! ### What the host hands over (R262, R267) -/

theorem test_image_of_3584_fits : WellFormed.imageFits (List.replicate 3584 0) = true := by
  simp [WellFormed.imageFits, Config.maxImage]

theorem test_image_of_3585_is_refused : WellFormed.imageFits (List.replicate 3585 0) = false := by
  simp [WellFormed.imageFits, Config.maxImage]

theorem test_key_code_15_fits : WellFormed.keyCodeFits 0x0F = true := by decide

theorem test_key_code_16_is_refused : WellFormed.keyCodeFits 0x10 = false := by decide

/-! ### Decoding, each word written out from R71, R72 and R74 -/

/-- R74: the whole word is fixed. -/
theorem test_decode_class_0_words :
    decodeWord 0b0000000011100000 = .ok (.cls) ∧
    decodeWord 0b0000000011101110 = .ok (.ret) := by decide

/-- R72: class, then a 12-bit address. -/
theorem test_decode_jumps_and_call :
    decodeWord 0b0001001000001010 = .ok (.jp 0x20A) ∧
    decodeWord 0b0010001000010000 = .ok (.call 0x210) ∧
    decodeWord 0b1011001100000000 = .ok (.jpV0 0x300) := by decide

/-- R72: class, X, byte; class, X, Y, 0. -/
theorem test_decode_skips :
    decodeWord 0b0011001100010000 = .ok (.seImm 3 0x10) ∧
    decodeWord 0b0100001100010001 = .ok (.sneImm 3 0x11) ∧
    decodeWord 0b0101000100100000 = .ok (.seReg 1 2) ∧
    decodeWord 0b1001000100100000 = .ok (.sneReg 1 2) := by decide

/-- R72. -/
theorem test_decode_register_loads :
    decodeWord 0b0110101010011101 = .ok (.ldImm 10 0x9D) ∧
    decodeWord 0b0111000011111111 = .ok (.addImm 0 0xFF) ∧
    decodeWord 0b1100001100001111 = .ok (.rnd 3 0x0F) := by decide

/-- R72, R74: the low nibble selects. -/
theorem test_decode_alu_words :
    decodeWord 0b1000000100100000 = .ok (.ldReg 1 2) ∧
    decodeWord 0b1000000100100001 = .ok (.orReg 1 2) ∧
    decodeWord 0b1000000100100010 = .ok (.andReg 1 2) ∧
    decodeWord 0b1000000100100011 = .ok (.xorReg 1 2) ∧
    decodeWord 0b1000000100100100 = .ok (.addReg 1 2) ∧
    decodeWord 0b1000000111110101 = .ok (.sub 1 15) ∧
    decodeWord 0b1000000100100110 = .ok (.shr 1 2) ∧
    decodeWord 0b1000000111110111 = .ok (.subn 1 15) ∧
    decodeWord 0b1000111111111110 = .ok (.shl 15 15) := by decide

/-- R72, R74. -/
theorem test_decode_index_words :
    decodeWord 0b1010001100000000 = .ok (.ldI 0x300) ∧
    decodeWord 0b1111000100011110 = .ok (.addI 1) ∧
    decodeWord 0b1111000000101001 = .ok (.ldF 0) ∧
    decodeWord 0b1111101000110011 = .ok (.ldB 10) ∧
    decodeWord 0b1111000101010101 = .ok (.ldMemStore 1) ∧
    decodeWord 0b1111001001100101 = .ok (.ldMemLoad 2) := by decide

/-- R72. -/
theorem test_decode_display_words :
    decodeWord 0b1101000100101111 = .ok (.drw 1 2 15) := by decide

/-- R72, R74: the low byte selects. -/
theorem test_decode_input_and_timer_words :
    decodeWord 0b1110000010011110 = .ok (.skp 0) ∧
    decodeWord 0b1110001110100001 = .ok (.sknp 3) ∧
    decodeWord 0b1111000100000111 = .ok (.ldVxDt 1) ∧
    decodeWord 0b1111001000001010 = .ok (.ldVxK 2) ∧
    decodeWord 0b1111000000010101 = .ok (.ldDtVx 0) ∧
    decodeWord 0b1111000000011000 = .ok (.ldStVx 0) := by decide

/-- V6: words that match no row. -/
theorem test_decode_illegal_words :
    [0x0000, 0x00E1, 0x0123, 0x5121, 0x8128, 0x812F, 0x9121, 0xE0A2, 0xE19F, 0xF000, 0xFFFF].all
      (fun w => decide (decodeWord w = .error (.illegal w))) = true := by decide

/-- R54, R70: two bytes, the high one first; the rest is left over; one byte is too few. -/
theorem test_decode_bytes :
    decodeBytes [0x12, 0x0A, 0x99] = .ok (.jp 0x20A, [0x99]) ∧ decodeBytes [0x12] = .error .truncated := by decide

/-- The opcode table numbers the bits of the word as the word does (R6). -/
theorem test_decode_table_word :
    decodeTableWord 16 0x8126 = some (.shr 1 2) ∧ decodeTableWord 16 0x812F = none := by decide

/-! ### The cycle driver (95_test_vectors.md, L2.1) -/

/-- V1: the last address an instruction can be fetched from. -/
theorem test_step_at_last_word :
    gives (step (ready 0x6123 (atPc 0xFFE))) (fun t => t.reg 1 == 0x23 && t.pc == 0x1000) = true := by decide

/-- V2 and V3: the fetch is bounds-checked. -/
theorem test_step_fetch_faults :
    faults (atPc 0x1000) 4 0 0x1000 = true ∧ faults (atPc 0xFFF) 4 0 0x1000 = true ∧
    faults (atPc 0x10FE) 4 0 0x10FE = true := by decide

/-- V4: an odd `PC` is legal. -/
theorem test_step_at_odd_pc :
    gives (step (ready 0x6042 (atPc 0x201))) (fun t => t.reg 0 == 0x42 && t.pc == 0x203) = true := by decide

/-- V5 and V6: an illegal word. -/
theorem test_step_illegal_word :
    faults State.reset 1 0x0000 0 = true ∧ faults (ready 0x8128 State.reset) 1 0x8128 0 = true := by decide

/-- V8: a halted core. -/
theorem test_step_halted :
    gives (step halted) (fun t => t.dt == 5 && t.pc == 0x200 && decide (t.status = .faulted .illegalInstruction)) = true ∧
    (hostTick halted).2 = false ∧ (hostTick halted).1.dt = 5 := by decide

/-! ### Each instruction, one step -/

/-- V11. -/
theorem test_ret :
    gives (step (ready 0x00EE (atSp 1 0xFFE))) (fun t => t.sp == 0 && t.pc == 0x1000 && t.stack[0] == 0xFFE) = true := by decide

/-- V10. -/
theorem test_ret_underflow :
    faults (ready 0x00EE State.reset) 3 0x00EE 0 = true := by decide

/-- V14, V15. -/
theorem test_jp :
    gives (step (ready 0x1FFF State.reset)) (fun t => t.pc == 0xFFF) = true ∧
    gives (step (ready 0x120A (atPc 0x20A))) (fun t => t.pc == 0x20A) = true := by decide

/-- V12. -/
theorem test_call :
    gives (step (ready 0x2300 (atSp 15 0))) (fun t => t.stack[15] == 0x200 && t.sp == 16 && t.pc == 0x300 && t.stack[14] == 0) = true := by decide

/-- V13. -/
theorem test_call_overflow :
    faults (ready 0x2300 (atSp 16 0x200)) 2 0x2300 0 = true := by decide

/-- V16, V18. -/
theorem test_se_imm :
    gives (step (ready 0x3310 (regs [(3, 0x10)] State.reset))) (fun t => t.pc == 0x204) = true ∧
    gives (step (ready 0x3311 (regs [(3, 0x10)] State.reset))) (fun t => t.pc == 0x202) = true ∧
    gives (step (ready 0x3000 (atPc 0xFFC))) (fun t => t.pc == 0x1000) = true := by decide

/-- V17. -/
theorem test_sne_imm :
    gives (step (ready 0x4310 (regs [(3, 0x10)] State.reset))) (fun t => t.pc == 0x202) = true ∧
    gives (step (ready 0x4311 (regs [(3, 0x10)] State.reset))) (fun t => t.pc == 0x204) = true := by decide

/-- V19, V20. -/
theorem test_se_reg :
    gives (step (ready 0x5120 (regs [(1, 7), (2, 7)] State.reset))) (fun t => t.pc == 0x204) = true ∧
    gives (step (ready 0x5110 State.reset)) (fun t => t.pc == 0x204) = true := by decide

/-- V19, V20; the example of R116. -/
theorem test_sne_reg :
    gives (step (ready 0x9120 (regs [(1, 7), (2, 7)] State.reset))) (fun t => t.pc == 0x202) = true ∧
    gives (step (ready 0x9120 (regs [(1, 7), (2, 8)] State.reset))) (fun t => t.pc == 0x204) = true ∧
    gives (step (ready 0x9110 State.reset)) (fun t => t.pc == 0x202) = true := by decide

/-- V22, V23. -/
theorem test_jp_v0 :
    gives (step (ready 0xBFFF (regs [(0, 1)] State.reset))) (fun t => t.pc == 0x1000) = true ∧
    gives (step (ready 0xBFFF (regs [(0, 0xFF)] State.reset))) (fun t => t.pc == 0x10FE) = true := by decide

/-- V24. -/
theorem test_ld_imm :
    gives (step (ready 0x6A9D State.reset)) (fun t => t.reg 10 == 0x9D && t.pc == 0x202) = true := by decide

/-- V25, V26: no flag. -/
theorem test_add_imm :
    gives (step (ready 0x7002 (regs [(0, 0xFF), (15, 0x55)] State.reset))) (fun t => t.reg 0 == 1 && t.reg 15 == 0x55) = true ∧
    gives (step (ready 0x70FF (regs [(0, 0x10)] State.reset))) (fun t => t.reg 0 == 0x0F) = true := by decide

/-- V27. -/
theorem test_ld_reg :
    gives (step (ready 0x8120 (regs [(2, 0x33)] State.reset))) (fun t => t.reg 1 == 0x33 && t.reg 2 == 0x33 && t.pc == 0x202) = true := by decide

/-- V28: `VF` unchanged. -/
theorem test_or_reg :
    gives (step (ready 0x8121 (regs [(1, 0xF0), (2, 0x0C), (15, 9)] State.reset))) (fun t => t.reg 1 == 0xFC && t.reg 15 == 9) = true := by decide

/-- V28. -/
theorem test_and_reg :
    gives (step (ready 0x8122 (regs [(1, 0xF0), (2, 0x3C), (15, 9)] State.reset))) (fun t => t.reg 1 == 0x30 && t.reg 15 == 9) = true := by decide

/-- V28, V29. -/
theorem test_xor_reg :
    gives (step (ready 0x8123 (regs [(1, 0xF0), (2, 0x3C), (15, 9)] State.reset))) (fun t => t.reg 1 == 0xCC && t.reg 15 == 9) = true ∧
    gives (step (ready 0x8113 (regs [(1, 0x5A)] State.reset))) (fun t => t.reg 1 == 0) = true := by decide

/-- E1, V30, V31. -/
theorem test_add_reg :
    gives (step (ready 0x8124 (regs [(1, 0x7F), (2, 0x80), (15, 1)] State.reset))) (fun t => t.reg 1 == 0xFF && t.reg 15 == 0) = true ∧
    gives (step (ready 0x8124 (regs [(1, 0x80), (2, 0x80)] State.reset))) (fun t => t.reg 1 == 0 && t.reg 15 == 1) = true ∧
    gives (step (ready 0x81F4 (regs [(1, 0xFF), (15, 1)] State.reset))) (fun t => t.reg 1 == 0 && t.reg 15 == 1) = true := by decide

/-- V44, V45, both orders. -/
theorem test_add_to_vf :
    gives (step (ready 0x8F14 (regs [(15, 0xF0), (1, 0x20)] State.reset))) (fun t => t.reg 15 == 0x10) = true ∧
    gives (step (ready 0x8F14 (otherwise (regs [(15, 0xF0), (1, 0x20)] State.reset)))) (fun t => t.reg 15 == 0x01) = true ∧
    gives (step (ready 0x8FF4 (regs [(15, 0x90)] State.reset))) (fun t => t.reg 15 == 0x20) = true := by decide

/-- V33, V34, V35. -/
theorem test_sub :
    gives (step (ready 0x8125 (regs [(1, 5), (2, 7)] State.reset))) (fun t => t.reg 1 == 0xFE && t.reg 15 == 0) = true ∧
    gives (step (ready 0x8115 (regs [(1, 0x42)] State.reset))) (fun t => t.reg 1 == 0 && t.reg 15 == 1) = true ∧
    gives (step (ready 0x81F5 (regs [(1, 5), (15, 7)] State.reset))) (fun t => t.reg 1 == 0xFE && t.reg 15 == 0) = true := by decide

/-- V46, V47, both orders. -/
theorem test_sub_to_vf :
    gives (step (ready 0x8F15 (regs [(15, 0x10), (1, 0x20)] State.reset))) (fun t => t.reg 15 == 0xF0) = true ∧
    gives (step (ready 0x8FF5 (regs [(15, 0x10)] State.reset))) (fun t => t.reg 15 == 0) = true ∧
    gives (step (ready 0x8FF5 (otherwise (regs [(15, 0x10)] State.reset)))) (fun t => t.reg 15 == 1) = true := by decide

/-- V36, V37. -/
theorem test_shr :
    gives (step (ready 0x8126 (regs [(1, 0xFE), (2, 0x55)] State.reset))) (fun t => t.reg 1 == 0x7F && t.reg 15 == 0 && t.reg 2 == 0x55) = true ∧
    gives (step (ready 0x8106 (regs [(0, 0), (1, 5)] State.reset))) (fun t => t.reg 1 == 2 && t.reg 15 == 1) = true := by decide

/-- V48, both orders. -/
theorem test_shr_vf :
    gives (step (ready 0x8F06 (regs [(15, 6)] State.reset))) (fun t => t.reg 15 == 3) = true ∧
    gives (step (ready 0x8F06 (otherwise (regs [(15, 6)] State.reset)))) (fun t => t.reg 15 == 0) = true := by decide

/-- V38, V39, V40. -/
theorem test_subn :
    gives (step (ready 0x8127 (regs [(1, 7), (2, 5)] State.reset))) (fun t => t.reg 1 == 0xFE && t.reg 15 == 0) = true ∧
    gives (step (ready 0x8127 (regs [(2, 0xFF)] State.reset))) (fun t => t.reg 1 == 0xFF && t.reg 15 == 1) = true ∧
    gives (step (ready 0x81F7 (regs [(1, 5), (15, 7)] State.reset))) (fun t => t.reg 1 == 2 && t.reg 15 == 1) = true := by decide

/-- V49, both orders. -/
theorem test_subn_to_vf :
    gives (step (ready 0x8F17 (regs [(15, 0x30), (1, 0x10)] State.reset))) (fun t => t.reg 15 == 0xE0) = true ∧
    gives (step (ready 0x8F17 (otherwise (regs [(15, 0x30), (1, 0x10)] State.reset)))) (fun t => t.reg 15 == 0) = true := by decide

/-- V41. -/
theorem test_shl :
    gives (step (ready 0x810E (regs [(1, 0x81)] State.reset))) (fun t => t.reg 1 == 2 && t.reg 15 == 1) = true ∧
    gives (step (ready 0x810E (regs [(1, 0x7F), (15, 1)] State.reset))) (fun t => t.reg 1 == 0xFE && t.reg 15 == 0) = true ∧
    gives (step (ready 0x810E (regs [(1, 0xFF)] State.reset))) (fun t => t.reg 1 == 0xFE && t.reg 15 == 1) = true := by decide

/-- V7, V50, both orders. -/
theorem test_shl_vf :
    gives (step (ready 0x8FFE State.reset)) (fun t => t.reg 15 == 0 && t.pc == 0x202) = true ∧
    gives (step (ready 0x8F0E (regs [(15, 0x81)] State.reset))) (fun t => t.reg 15 == 2) = true ∧
    gives (step (ready 0x8F0E (otherwise (regs [(15, 0x81)] State.reset)))) (fun t => t.reg 15 == 1) = true := by decide

/-- V51. -/
theorem test_ld_i :
    gives (step (ready 0xA300 State.reset)) (fun t => t.i == 0x300 && t.pc == 0x202) = true := by decide

/-- V42. -/
theorem test_rnd :
    gives (stepWith 0xA7 (ready 0xC30F State.reset)) (fun t => t.reg 3 == 0x07 && t.pc == 0x202) = true := by decide

/-- V43: whatever the byte, a mask of 0 gives 0. -/
theorem test_rnd_masked (r : Byte) :
    gives (stepWith r (ready 0xC300 State.reset)) (fun t => t.reg 3 == 0) = true := by
  have h : (ready 0xC300 State.reset).fetchDecode = .ok (.rnd 3 0x00) := by decide
  simp [stepWith, h, gives, randomInto, State.advance, State.goto, State.drawn, State.reg, State.setReg]

/-- V53, V54, V55, V57. -/
theorem test_add_i :
    gives (step (ready 0xF11E (regs [(1, 1)] (atI 0xFFF)))) (fun t => t.i == 0x1000 && t.reg 15 == 1) = true ∧
    gives (step (ready 0xF01E (atI 0x1005))) (fun t => t.i == 0x1005 && t.reg 15 == 1) = true ∧
    gives (step (ready 0xF11E (regs [(1, 2)] (atI 0xFFFF)))) (fun t => t.i == 1 && t.reg 15 == 1) = true ∧
    gives (step (ready 0xFF1E (regs [(15, 0x10)] (atI 0x100)))) (fun t => t.i == 0x110 && t.reg 15 == 0) = true := by decide

/-- V52, V56. -/
theorem test_add_i_boundary :
    gives (step (ready 0xF11E (regs [(1, 1)] (atI 0xFFE)))) (fun t => t.i == 0xFFF && t.reg 15 == 0) = true ∧
    gives (step (ready 0xF11E (narrow (regs [(1, 2)] (atI 0xFFF))))) (fun t => t.i == 1 && t.reg 15 == 1) = true := by decide

/-- E11, V58. -/
theorem test_ld_f :
    gives (step (ready 0xF029 (regs [(0, 7)] State.reset))) (fun t => t.i == 0x023 && t.readByte 0x023 == 0xF0 && t.readByte 0x024 == 0x10) = true ∧
    gives (step (ready 0xF029 (regs [(0, 0xFF)] State.reset))) (fun t => t.i == 0x4FB) = true := by decide

/-- E6, V60. -/
theorem test_ld_b :
    gives (step (ready 0xF033 (regs [(0, 157)] (atI 0x300)))) (fun t => t.loadRun 0x300 3 == [1, 5, 7] && t.i == 0x300) = true ∧
    gives (step (ready 0xF033 (regs [(0, 123)] (atI 0xFFD)))) (fun t => t.loadRun 0xFFD 3 == [1, 2, 3]) = true := by decide

/-- V61, V62. -/
theorem test_ld_b_bounds :
    faults (ready 0xF033 (regs [(0, 1)] (atI 0xFFE))) 4 0xF033 0x1000 = true ∧
    faults (ready 0xF033 (atI 0x1005)) 4 0xF033 0x1005 = true := by decide

/-- V63, V64. -/
theorem test_ld_mem_store :
    gives (step (ready 0xF155 (regs [(0, 1), (1, 2), (2, 3)] (atI 0x400)))) (fun t => t.loadRun 0x400 3 == [1, 2, 0] && t.i == 0x400) = true ∧
    gives (step (ready 0xFF55 (regs [(0, 1), (15, 9)] (atI 0xFF0)))) (fun t => t.readByte 0xFF0 == 1 && t.readByte 0xFFF == 9 && !t.halted) = true := by decide

/-- V65. -/
theorem test_ld_mem_store_bounds :
    faults (ready 0xFF55 (regs [(0, 1)] (atI 0xFF1))) 4 0xFF55 0x1000 = true := by decide

/-- V66, V67. -/
theorem test_ld_mem_load :
    gives (step (ready 0xF065 (regs [(1, 5)] (State.storeRun (atI 0xFFF) 0xFFF [0x77])))) (fun t => t.reg 0 == 0x77 && t.reg 1 == 5) = true ∧
    gives (step (ready 0xFF65 State.reset)) (fun t => t.v.toList == [0xF0, 0x90, 0x90, 0x90, 0xF0, 0x20, 0x60, 0x20, 0x20, 0x70, 0xF0, 0x10, 0xF0, 0x80, 0xF0, 0xF0] && t.i == 0) = true := by decide

/-- R165. -/
theorem test_ld_mem_load_bounds :
    faults (ready 0xFF65 (atI 0xFF1)) 4 0xFF65 0x1000 = true := by decide

/-- V75, E3. -/
theorem test_cls :
    gives (step (ready 0x00E0 (regs [(15, 7)] (lit [(0, 0), (63, 31)] State.reset)))) (fun t => !t.cell 0 0 && !t.cell 63 31 && t.dirty && t.reg 15 == 7 && drewOf (ready 0x00E0 State.reset) t) = true := by decide

/-- V71, V72. -/
theorem test_drw_edges :
    gives (step (ready 0xD011 (regs [(0, 64), (1, 32)] State.reset))) (fun t => t.cell 0 0 && t.cell 3 0 && !t.cell 4 0 && t.reg 15 == 0) = true ∧
    gives (step (ready 0xD011 (otherwise (regs [(0, 64), (1, 32)] State.reset)))) (fun t => !t.cell 0 0 && !t.cell 63 31 && t.reg 15 == 0 && t.dirty) = true ∧
    gives (step (ready 0xDF01 (regs [(15, 3), (0, 2)] State.reset))) (fun t => t.cell 3 2 && t.cell 6 2 && !t.cell 2 2 && !t.cell 7 2 && t.reg 15 == 0) = true := by decide

/-- E7, V74. -/
theorem test_drw_collision :
    gives (step (ready 0xD121 (regs [(1, 60), (15, 9)] (State.storeRun (lit [(1, 0)] (atI 0x400)) 0x400 [0xFF])))) (fun t => !t.cell 1 0 && t.cell 0 0 && t.cell 60 0 && t.reg 15 == 1) = true ∧
    gives (step (ready 0xD121 (otherwise (regs [(1, 60), (15, 9)] (State.storeRun (lit [(1, 0)] (atI 0x400)) 0x400 [0xFF]))))) (fun t => t.cell 1 0 && !t.cell 0 0 && t.cell 63 0 && t.reg 15 == 0) = true := by decide

/-- V68, V69, V70. -/
theorem test_drw_bounds :
    gives (step (ready 0xD120 (regs [(15, 3)] (atI 0xFFFF)))) (fun t => !t.halted && t.reg 15 == 0 && t.dirty) = true ∧
    gives (step (ready 0xD12F (atI 0xFF1))) (fun t => !t.halted && t.dirty) = true ∧
    faults (ready 0xD12F (atI 0xFF2)) 4 0xD12F 0x1000 = true := by decide

/-- V76. -/
theorem test_skp :
    gives (step (ready 0xE09E (holding [5] (regs [(0, 5)] State.reset)))) (fun t => t.pc == 0x204) = true ∧
    gives (step (ready 0xE09E (regs [(0, 5)] State.reset))) (fun t => t.pc == 0x202) = true := by decide

/-- V77. -/
theorem test_skp_key_index :
    faults (ready 0xE09E (regs [(0, 16)] State.reset)) 5 0xE09E 0 = true := by decide

/-- V78, V79 under `raw_nibble`. -/
theorem test_sknp :
    gives (step (ready 0xE3A1 (regs [(3, 0x20)] State.reset))) (fun t => t.pc == 0x204) = true ∧
    gives (step (ready 0xE3A1 (holding [0xC] (regs [(3, 0x0C)] State.reset)))) (fun t => t.pc == 0x204) = true := by decide

/-- V78, V79 under `dereference`. -/
theorem test_sknp_dereference :
    faults (ready 0xE3A1 (otherwise (regs [(3, 0x20)] State.reset))) 5 0xE3A1 0 = true ∧
    gives (step (ready 0xE3A1 (otherwise (holding [0xC] (regs [(3, 0x0C)] State.reset))))) (fun t => t.pc == 0x202) = true := by decide

/-- V82. -/
theorem test_ld_vx_dt :
    gives (step (ready 0xF107 { State.reset with dt := 0x3C })) (fun t => t.reg 1 == 0x3C && t.pc == 0x202) = true := by decide

/-- V80, steps 1 and 2. -/
theorem test_ld_vx_k_waits :
    gives (step (ready 0xF20A (holding [4] State.reset))) (fun t => t.waitActive && t.keySnap[4] && t.pc == 0x200) = true ∧
    gives (step (holding [4] (waiting [4]))) (fun t => t.waitActive && t.reg 2 == 0 && t.pc == 0x200) = true := by decide

/-- V80, step 4: the lowest newly held key. -/
theorem test_ld_vx_k_completes :
    gives (step (holding [4, 9] (waiting []))) (fun t => !t.waitActive && t.reg 2 == 4 && t.pc == 0x202 && decide (t.status = .executed)) = true ∧
    gives (step (holding [4, 9] (waiting [4]))) (fun t => t.reg 2 == 9) = true := by decide

/-- E8. -/
theorem test_ld_dt_vx :
    gives (step (ready 0xF015 (regs [(0, 5)] State.reset))) (fun t => t.dt == 5 && t.st == 0 && t.pc == 0x202) = true := by decide

/-- V83. -/
theorem test_ld_st_vx :
    gives (step (ready 0xF018 (regs [(0, 3)] State.reset))) (fun t => t.st == 3 && t.dt == 0 && t.pc == 0x202) = true := by decide

/-! ### The host operations -/

/-- V83, V84, V85: the beep is the tick from 2 to 1. -/
theorem test_tick_beeps :
    [3, 2, 1, 0].map (fun n : Byte => (hostTick { State.reset with st := n }).2) = [false, true, false, false] ∧
    [3, 2, 1, 0].map (fun n : Byte => (hostTick { State.reset with st := n, dt := n }).1.dt) = [2, 1, 0, 0] := by decide

/-- E9: an image that ends at the top of memory. -/
theorem test_load_at_the_top :
    ((State.reset.storeRun 0xFFE [0xAB, 0xCD]).readByte 0xFFF) = 0xCD ∧
    ((hostLoad [0x60, 0x05] State.reset).1.loadRun 0x1FF 4) = [0x00, 0x60, 0x05, 0x00] := by decide

/-- R267: a load after the first step, a step before a reset, and a key code of 16 are no moves. -/
theorem test_host_moves_refused :
    ((({ core := State.reset, phase := .running } : Session).move (.load [])).isSome = false) ∧
    ((({ core := State.reset, phase := .unreset } : Session).move (.step 0)).isSome = false) ∧
    ((({ core := State.reset, phase := .running } : Session).move (.setKey 16 true)).isSome = false) ∧
    ((({ core := State.reset, phase := .running } : Session).move (.setKey 15 true)).isSome = true) := by decide

/-! ### Witnesses: states and operands that meet the hypotheses of each statement, at the boundaries of each clause -/

/-- States that meet `CoreInv`: running, at the ends of the stack and of the `PC` range, waiting, halted. -/
theorem test_witness_StepKeepsInv :
    CoreInv (ready 0x6A9D State.reset) ∧ CoreInv (ready 0x00EE (atSp 16 0xFFE)) ∧ CoreInv (ready 0x2300 (atPc 0xFFE)) ∧
    CoreInv (atPc 0x10FE) ∧ CoreInv (waiting [4]) ∧ CoreInv halted ∧ CoreInv (narrow (atI 0xFFF)) ∧
    ∀ s, ∃ t, step s = .next t :=
  ⟨by decide, by decide, by decide, by decide, by decide, by decide, by decide,
    fun s => step_eq_stepWith s ▸ stepWith_next s _⟩

theorem test_witness_HostMovesKeepInv :
    SessionInv { core := ready 0x6A9D State.reset, phase := .loadable } ∧
    SessionInv { core := waiting [4], phase := .running } ∧ SessionInv { core := halted, phase := .running } ∧
    [HostOp.reset, .load [0x60], .step 7, .tick, .setKey 15 true, .readFb, .clearDirty, .readFault].all (fun op =>
      (({ core := ready 0x6A9D State.reset, phase := .loadable } : Session).move op).isSome) = true :=
  ⟨⟨by decide, fun _ => rfl⟩, ⟨by decide, by simp⟩, ⟨by decide, by simp⟩, by decide⟩

theorem test_witness_StepRunsDecodedInstruction :
    (ready 0x6123 (atPc 0xFFE)).halted = false ∧ (ready 0x6123 (atPc 0xFFE)).pc.toNat + 1 < 4096 ∧
    decodeWord ((ready 0x6123 (atPc 0xFFE)).readByte 0xFFE ++ (ready 0x6123 (atPc 0xFFE)).readByte 0xFFF) =
      .ok (.ldImm 1 0x23) := by decide

theorem test_witness_FetchIsBoundsChecked :
    (atPc 0xFFF).halted = false ∧ 4096 ≤ (atPc 0xFFF).pc.toNat + 1 ∧ (atPc 0xFFE).pc.toNat + 1 < 4096 := by decide

theorem test_witness_IllegalWordFaults :
    (ready 0x812F (atPc 0xFFE)).halted = false ∧ (ready 0x812F (atPc 0xFFE)).pc.toNat + 1 < 4096 ∧
    (0x812F : Word) = (ready 0x812F (atPc 0xFFE)).readByte 0xFFE ++ (ready 0x812F (atPc 0xFFE)).readByte 0xFFF ∧
    decodeWord 0x812F = .error (.illegal 0x812F) := by decide

/-- A fault of each cause, in a step from a core that is not halted. -/
theorem test_witness_FaultEntryIsPrecise :
    [(State.reset, FaultCause.illegalInstruction), (ready 0x2300 (atSp 16 0), .stackOverflow),
      (ready 0x00EE State.reset, .stackUnderflow), (ready 0xF033 (atI 0xFFE), .memoryBounds),
      (atPc 0xFFF, .memoryBounds), (ready 0xE09E (regs [(0, 16)] State.reset), .keyIndex)].all (fun p =>
      !p.1.halted && gives (step p.1) (fun t => t.halted && t.faultCause == p.2)) = true := by decide

/-- Each instruction that can fault, at the first operands that make it fault, and not just below them. -/
theorem test_witness_OnlyListedInstructionsFault :
    [(Instr.call 0x300, atSp 16 0), (.ret, atSp 0 0), (.drw 1 2 15, atI 0xFF2), (.ldB 0, atI 0xFFE),
      (.ldMemStore 15, atI 0xFF1), (.ldMemLoad 0, atI 0x1000), (.skp 0, regs [(0, 16)] State.reset),
      (.sknp 0, otherwise (regs [(0, 16)] State.reset))].all (fun p =>
        !p.2.halted && gives (exec p.1 p.2) (fun t => t.halted)) = true ∧
    [(Instr.call 0x300, atSp 15 0), (.ret, atSp 1 0), (.drw 1 2 15, atI 0xFF1), (.ldB 0, atI 0xFFD),
      (.ldMemStore 15, atI 0xFF0), (.ldMemLoad 0, atI 0xFFF), (.skp 0, regs [(0, 15)] State.reset),
      (.sknp 0, regs [(0, 16)] State.reset)].all (fun p =>
        !p.2.halted && gives (exec p.1 p.2) (fun t => !t.halted)) = true := by decide

theorem test_witness_HaltedCoreStaysUntilReset :
    halted.halted = true ∧ Phase.running ≠ .unreset ∧ (0x0F : Byte).toNat < 16 ∧
    [HostOp.load [0x60], .step 7, .tick, .setKey 15 true, .readFb, .clearDirty, .readFault].all (fun op =>
      decide (op ≠ .reset) && (({ core := halted, phase := .loadable } : Session).move op).isSome) = true := by decide

theorem test_witness_OnlyRndReadsRandomByte :
    ∀ x nn, (ready 0x6A9D State.reset).fetchDecode ≠ .ok (.rnd x nn) := by
  have h : (ready 0x6A9D State.reset).fetchDecode = .ok (.ldImm 10 0x9D) := by decide
  simp [h]

/-- A step that faults, one that waits, one that draws, one that does none of these. -/
theorem test_witness_StepReportsStatusAndDrew :
    gives (stepWith 0 State.reset) (fun t => t.halted) = true ∧
    gives (stepWith 0 (waiting [])) (fun t => !t.halted && t.waitActive) = true ∧
    gives (stepWith 0 (ready 0xD120 (atI 0xFFFF)))
      (fun t => !t.halted && !t.waitActive && drewOf (ready 0xD120 (atI 0xFFFF)) t) = true ∧
    gives (stepWith 0 (ready 0x6A9D State.reset)) (fun t => !t.halted && !t.waitActive) = true ∧
    (∀ r, ∃ t, stepWith r State.reset = .next t) ∧
    (Phase.loadable = .loadable ∨ Phase.loadable = .running) ∧ (Phase.running = .loadable ∨ Phase.running = .running) :=
  ⟨by decide, by decide, by decide, by decide, fun r => stepWith_next _ r, by decide, by decide⟩

theorem test_witness_EncodeOfDecodeReturnsWord : decodeWord 0xD12F = .ok (.drw 1 2 15) := by decide

theorem test_witness_DecoderFollowsOpcodeTable :
    decodeWord 0x8FFE = .ok (.shl 15 15) ∧ (⟨0x800E, 0xF00F⟩ : OpcodeRow) ∈ opcodeTable ∧
    (0x8FFE : Word) &&& 0xF00F = 0x800E ∧ (∀ r ∈ opcodeTable, (0x8FFF : Word) &&& r.mask ≠ r.pattern) := by decide

theorem test_witness_ClearScreen : (ready 0x00E0 (atPc 0xFFE)).fetchDecode = .ok .cls := by decide

theorem test_witness_ReturnPopsAndAdvances :
    (atSp 0 0).sp.val = 0 ∧ 0 < (atSp 1 0).sp.val ∧ 0 < (atSp 16 0).sp.val := by decide

theorem test_witness_CallPushesItsAddress :
    (atSp 16 0).sp.val = 16 ∧ (atSp 0 0).sp.val < 16 ∧ (atSp 15 0).sp.val < 16 ∧
    ((14 : Fin 16).val ≠ (atSp 15 0).sp.val) := by decide

theorem test_witness_CallThenReturnComesBack :
    (atSp 15 0).sp.val < 16 ∧ (0 : Fin 16).val ≠ (atSp 15 0).sp.val := by decide

/-- A register that is not `VF`, a sprite that fits, one that collides and one that does not. -/
theorem test_witness_VfAsOperandAndDestination :
    (0x10 : Nat) = ((regs [(15, 0x10)] State.reset).reg 0xF).toNat ∧ (14 : Nibble) ≠ 0xF ∧ ((15 : Nibble) = 0xF ∨ (0 : Nibble) = 0xF) ∧
    SpriteFits (atI 0xFF1) 15 ∧ SpriteFits (atI 0xFFFF) 0 := by
  refine ⟨by decide, by decide, by decide, Or.inr (by decide), Or.inl (by decide)⟩

theorem test_witness_RandomByteIsMasked : (ready 0xC30F State.reset).fetchDecode = .ok (.rnd 3 0x0F) := by decide

theorem test_witness_EachDrawReadsItsOwnByte :
    (∀ x nn, Instr.cls ≠ .rnd x nn) ∧ ∃ t, exec .cls State.reset = .next t := ⟨by simp, _, rfl⟩

theorem test_witness_BcdStoresThreeDigits :
    4096 ≤ (atI 0xFFE).i.toNat + 2 ∧ (atI 0xFFD).i.toNat + 2 < 4096 ∧
    Memory.wf (atI 0xFFD).params (atI 0xFFD).mem := by decide

theorem test_witness_RegistersAreStored :
    4096 ≤ (atI 0xFF1).i.toNat + (15 : Nibble).toNat ∧ (atI 0xFF0).i.toNat + (15 : Nibble).toNat < 4096 ∧
    Memory.wf (atI 0xFF0).params (atI 0xFF0).mem ∧ (0 : Nibble).toNat ≤ (15 : Nibble).toNat := by decide

theorem test_witness_RegistersAreLoaded :
    4096 ≤ (atI 0x1000).i.toNat + (0 : Nibble).toNat ∧ (atI 0xFFF).i.toNat + (0 : Nibble).toNat < 4096 := by decide

/-- `F155` at 0x200 with `I = 0x202` stores the word `00E0` where the next step fetches. -/
theorem test_witness_StoredWordIsFetchedNext :
    Memory.wf (regs [(1, 0xE0)] (atI 0x202)).params (regs [(1, 0xE0)] (atI 0x202)).mem ∧
    (regs [(1, 0xE0)] (atI 0x202)).halted = false ∧ (regs [(1, 0xE0)] (atI 0x202)).pc.toNat + 3 < 4096 ∧
    (regs [(1, 0xE0)] (atI 0x202)).i = (regs [(1, 0xE0)] (atI 0x202)).pc + 2 ∧
    gives (exec (.ldMemStore 1) (regs [(1, 0xE0)] (atI 0x202))) (fun t => t.fetchWord == 0x00E0) = true ∧
    decodeWord ((regs [(1, 0xE0)] (atI 0x202)).reg 0 ++ (regs [(1, 0xE0)] (atI 0x202)).reg 1) = .ok .cls := by decide

theorem test_witness_SpriteOutside : (15 : Nibble) ≠ 0 ∧ 4096 ≤ (atI 0xFF2).i.toNat + (15 : Nibble).toNat - 1 := by decide

/-- Glyph 0 at the origin covers cell (0, 0), which is lit. -/
theorem test_witness_Collides : Collides (lit [(0, 0)] State.reset) 0 1 1 :=
  ⟨0, 0, by decide, 0, 0, by decide, by decide, by decide, by decide, by decide⟩

/-- A blank screen takes any sprite without a collision. -/
theorem test_witness_no_collision (x y n : Nibble) : ¬ Collides State.reset x y n := by
  rintro ⟨px, py, h, _⟩
  simp [State.cell, State.reset, State.resetWith] at h

theorem test_witness_DrawFlipsCoveredCells :
    SpriteFits (atI 0xFF1) 15 ∧ SpriteFits (atI 0xFFFF) 0 ∧ (14 : Nibble) ≠ 0xF :=
  ⟨Or.inr (by decide), Or.inl (by decide), by decide⟩

theorem test_witness_DrawingTwiceRestores :
    (0 : Nibble) ≠ 0xF ∧ (1 : Nibble) ≠ 0xF ∧ SpriteFits State.reset 1 ∧ (∃ px py, Covers State.reset 0 1 1 px py) ∧
    gives (exec (.drw 0 1 1) State.reset) (fun t => gives (exec (.drw 0 1 1) t) (fun u => u.reg 0xF == 1)) = true :=
  ⟨by decide, by decide, Or.inr (by decide), ⟨0, 0, 0, 0, by decide, by decide, by decide, by decide, by decide⟩, by decide⟩

theorem test_witness_EdgePolicyIsMootInside :
    ((regs [(0, 56), (1, 17)] State.reset).reg 0).toNat + 7 ≤ 63 ∧
    ((regs [(0, 56), (1, 17)] State.reset).reg 1).toNat + (15 : Nibble).toNat ≤ 32 ∧
    SpriteFits (regs [(0, 56), (1, 17)] State.reset) 15 :=
  ⟨by decide, by decide, Or.inr (by decide)⟩

theorem test_witness_SkipIfKeyHeld :
    15 < ((regs [(0, 16)] State.reset).reg 0).toNat ∧
    ((regs [(0, 15)] State.reset).reg 0).toNat = (15 : Fin 16).val := by decide

theorem test_witness_SkipIfKeyNotHeld :
    (otherwise State.reset).params.exa1Mode = .dereference ∧ State.reset.params.exa1Mode = .rawNibble ∧
    15 < ((otherwise (regs [(0, 16)] State.reset)).reg 0).toNat ∧
    ((otherwise (regs [(0, 15)] State.reset)).reg 0).toNat = (15 : Fin 16).val ∧
    (15 : Nibble).toNat = (15 : Fin 16).val := by decide

/-- The three cases of a key wait: not waiting, nothing newly held, keys 4 and 9 newly held. -/
theorem test_witness_KeyWaitCompletesOnNewlyHeldKey :
    State.reset.waitActive = false ∧ (waiting [4]).waitActive = true ∧
    (∀ k : Fin 16, ¬ ((holding [4] (waiting [4])).key[k] = true ∧ (holding [4] (waiting [4])).keySnap[k] = false)) ∧
    (holding [4, 9] (waiting [])).key[(4 : Fin 16)] = true ∧ (holding [4, 9] (waiting [])).keySnap[(4 : Fin 16)] = false ∧
    (∀ j : Fin 16, j < 4 →
      ¬ ((holding [4, 9] (waiting [])).key[j] = true ∧ (holding [4, 9] (waiting [])).keySnap[j] = false)) := by decide

theorem test_witness_WaitingStepTouchesOnlyTheWait :
    CoreInv (holding [4] (waiting [4])) ∧ CoreInv (holding [4] (waiting [])) ∧ (waiting []).waitActive = true ∧
    gives (step (holding [4] (waiting [4]))) (fun t => t.waitActive) = true ∧
    gives (step (holding [4] (waiting []))) (fun t => !t.waitActive) = true := by decide

/-- The timers' clauses: halted, not halted, a sound timer of 1 and of 2, and a session after a reset. -/
theorem test_witness_Timers :
    Phase.running ≠ .unreset ∧
    halted.halted = true ∧ State.reset.halted = false ∧
    beeps 1 { State.reset with st := 2 } = 1 ∧ beeps 3 { State.reset with st := 1 } = 0 ∧
    (ticks 5 { State.reset with dt := 5 }).dt = 0 ∧ (ticks 4 { State.reset with dt := 5 }).dt = 1 := by decide

theorem test_witness_LoadCopiesImage :
    (List.replicate 3584 (0 : Byte)).length ≤ 3584 ∧ 3584 < (List.replicate 3585 (0 : Byte)).length ∧
    ([] : List Byte).length ≤ 3584 ∧ Memory.wf State.reset.params State.reset.mem ∧
    ({ core := State.reset, phase := .loadable } : Session).phase = .loadable ∧
    ({ core := State.reset, phase := .running } : Session).phase = .running ∧
    ({ core := State.reset, phase := .loadRefused } : Session).phase = .loadRefused :=
  ⟨by simp, by simp, by decide, by decide, rfl, rfl, rfl⟩

theorem test_witness_HostPortsReadAndWrite :
    15 < (0x10 : Byte).toNat ∧ (0x0F : Byte).toNat ≤ 15 ∧ Phase.loadable ≠ .unreset ∧ HostOp.tick ≠ .reset ∧
    HostOp.tick ≠ .clearDirty ∧
    ((({ core := { State.reset with dirty := true }, phase := .running } : Session).move .tick).isSome = true) := by decide

/-- After a refused load a tick is a move, and a step is none. -/
theorem test_witness_load_refused :
    HostOp.tick ≠ .reset ∧ ((({ core := State.reset, phase := .loadRefused } : Session).move .tick).isSome = true) ∧
    ((({ core := State.reset, phase := .loadRefused } : Session).move (.step 0)).isSome = false) := by decide

/-- A step of an instruction that the matrix bars from each piece of state, from a state with `Dirty` set. -/
theorem test_witness_WritesFollowTheAccessMatrix :
    { State.reset with dirty := true }.dirty = true ∧ writesReg (.jp 0x300) 15 = false ∧ writesIndex .cls = false ∧
    usesStack .cls = false ∧ storesBytes (.ldMemLoad 3) = false ∧ isDrawing .ret = false ∧
    (∀ i s, ∃ t, exec i s = .next t) :=
  ⟨by decide, by decide, by decide, by decide, by decide, by decide, fun i s => exec_next s i⟩

theorem test_witness_OtherInstructionsAdvanceByTwo :
    setsPc (.ldMemStore 0) = false ∧
    gives (exec (.ldMemStore 0) (atI 0xFFF)) (fun t => !t.halted && t.pc == 0x202) = true ∧
    gives (exec (.ldMemStore 0) (atI 0x1000)) (fun t => t.halted && t.pc == 0x200) = true := by decide

/-- From 0xFFE with `V0 = 0xFF`, `BFFF` reaches 0x10FE, where the next fetch faults. -/
theorem test_witness_PcStaysBelowTheWrap :
    CoreInv (ready 0xBFFF (regs [(0, 0xFF)] (atPc 0xFFE))) ∧
    gives (step (ready 0xBFFF (regs [(0, 0xFF)] (atPc 0xFFE)))) (fun t => !t.halted && t.pc == 0x10FE) = true := by decide


end Sys2Proof.Tests
end

section
/-!
PROOFS. The family of the state: what an instruction may write (R37), the reset values (R36), and the invariant.
-/

namespace Sys2Proof.Proofs

open Sys2Proof Sys2Proof.Machine Sys2Proof.Safety Sys2Proof.Claims

/-! ### What an instruction may write

`WritesWithin i s t` says that `t` differs from `s` only where the access matrix lets `i` write. There is one rule per
state operation; the result of an instruction is then within its bounds by chaining the rules of its operations. -/

/-- The state `t` differs from `s` only in what the matrix of R37 lets `i` write. -/
structure WritesWithin (i : Instr) (s t : State) : Prop where
  key    : t.key = s.key
  params : t.params = s.params
  dirty  : s.dirty = true → t.dirty = true
  reg    : ∀ k, writesReg i k = false → t.reg k = s.reg k
  index  : writesIndex i = false → t.i = s.i
  stack  : usesStack i = false → t.stack = s.stack ∧ t.sp = s.sp
  mem    : storesBytes i = false → t.mem = s.mem
  screen : isDrawing i = false → t.fb = s.fb ∧ t.dirty = s.dirty
  delay  : (∀ x, i ≠ .ldDtVx x) → t.dt = s.dt
  sound  : (∀ x, i ≠ .ldStVx x) → t.st = s.st
  wait   : (∀ x, i ≠ .ldVxK x) → t.waitActive = s.waitActive ∧ t.keySnap = s.keySnap

namespace WritesWithin

variable {i : Instr} {s t : State}

theorem refl (i : Instr) (s : State) : WritesWithin i s s :=
  ⟨rfl, rfl, id, fun _ _ => rfl, fun _ => rfl, fun _ => ⟨rfl, rfl⟩, fun _ => rfl, fun _ => ⟨rfl, rfl⟩, fun _ => rfl,
    fun _ => rfl, fun _ => ⟨rfl, rfl⟩⟩

theorem raise (h : WritesWithin i s t) (c : FaultCause) (w : Word) (a : Nat) : WritesWithin i s (t.raise c w a) :=
  { h with }

theorem goto (h : WritesWithin i s t) (target : Word) : WritesWithin i s (t.goto target) := { h with }

theorem advance (h : WritesWithin i s t) : WritesWithin i s t.advance := { h with }

theorem skipIf (h : WritesWithin i s t) (c : Bool) : WritesWithin i s (t.skipIf c) := { h with }

theorem drawn (h : WritesWithin i s t) : WritesWithin i s t.drawn := { h with }

theorem setReg (h : WritesWithin i s t) {x : Nibble} (hx : writesReg i x = true) (b : Byte) :
    WritesWithin i s (t.setReg x b) :=
  { h with
    reg := fun k hk => by
      have hkx : k ≠ x := fun e => by simp [e, hx] at hk
      rw [reg_setReg, if_neg hkx, h.reg k hk] }

theorem writeFlagged (h : WritesWithin i s t) {x : Nibble} (hx : writesReg i x = true) (hvf : writesReg i vf = true)
    (flag res : Byte) : WritesWithin i s (t.writeFlagged x flag res) := by
  unfold State.writeFlagged
  split
  · exact (h.setReg hvf flag).setReg hx res
  · exact (h.setReg hx res).setReg hvf flag

theorem loadRegs (h : WritesWithin i s t) {bs : List Byte}
    (hbs : ∀ k : Nibble, k.toNat < bs.length → writesReg i k = true) : WritesWithin i s (t.loadRegs bs) :=
  { h with
    reg := fun k hk => by
      have hlen : ¬ k.toNat < bs.length := fun hlt => by simp [hbs k hlt] at hk
      rw [reg_eq_getElem, State.loadRegs_v, getElem_writeRegs, dif_neg (by omega), ← reg_eq_getElem, h.reg k hk] }

theorem setIndex (h : WritesWithin i s t) (hi : writesIndex i = true) (a : Nat) : WritesWithin i s (t.setIndex a) :=
  { h with index := by simp [hi] }

theorem storeRun (h : WritesWithin i s t) (hi : storesBytes i = true) (a : Nat) (bs : List Byte) :
    WritesWithin i s (t.storeRun a bs) :=
  { h with mem := by simp [hi] }

theorem present (h : WritesWithin i s t) (hi : isDrawing i = true) (fb : Vector Bool 2048) :
    WritesWithin i s (t.present fb) :=
  { h with dirty := fun _ => rfl, screen := by simp [hi] }

theorem push (h : WritesWithin i s t) (hi : usesStack i = true) (w : Word) : WritesWithin i s (t.push w) := by
  unfold State.push
  split
  · exact { h with stack := by simp [hi] }
  · exact h

theorem pop (h : WritesWithin i s t) (hi : usesStack i = true) : WritesWithin i s t.pop :=
  { h with stack := by simp [hi] }

theorem setDelay {x : Nibble} (h : WritesWithin (.ldDtVx x) s t) (b : Byte) :
    WritesWithin (.ldDtVx x) s (t.setDelay b) :=
  { h with delay := fun hn => absurd rfl (hn x) }

theorem setSound {x : Nibble} (h : WritesWithin (.ldStVx x) s t) (b : Byte) :
    WritesWithin (.ldStVx x) s (t.setSound b) :=
  { h with sound := fun hn => absurd rfl (hn x) }

theorem setWait {x : Nibble} (h : WritesWithin (.ldVxK x) s t) (active : Bool) (snap : Vector Bool 16) :
    WritesWithin (.ldVxK x) s (t.setWait active snap) :=
  { h with wait := fun hn => absurd rfl (hn x) }

theorem afterRun (h : WritesWithin i s t) (w : Word) (a n : Nat) : WritesWithin i s (s.afterRun w a n t) := by
  obtain ⟨-, heq⟩ | ⟨-, heq⟩ := afterRun_cases s w a n t
  · rw [heq]; exact h
  · rw [heq]; exact (refl i s).raise _ _ _

theorem keySkip (i : Instr) (s : State) (w : Word) (k : Option (Fin 16)) (level : Bool) :
    WritesWithin i s (s.keySkip w k level) := by
  obtain ⟨-, heq⟩ | ⟨j, -, heq⟩ := keySkip_cases s w k level
  · rw [heq]; exact (refl i s).raise _ _ _
  · rw [heq]; exact (refl i s).skipIf _

end WritesWithin

section
variable {i : Instr} {s t : State}

/-- The outcomes of `FX0A`: the core waits at the same `PC`, or a key goes to `V[x]` and the wait ends (R202). -/
theorem exec_ldVxK_cases {x : Nibble} (h : exec (.ldVxK x) s = .next t) :
    t = s.setWait true s.key ∨ ∃ b, t = ((s.setReg x b).setWait false s.key).advance := by
  obtain rfl := Host.Outcome.next.inj h
  split
  · split
    · exact .inl rfl
    · exact .inr ⟨_, rfl⟩
  · exact .inl rfl

/-- Every outcome of an instruction stays within what the access matrix lets it write (R37). -/
theorem exec_writesWithin (h : exec i s = .next t) : WritesWithin i s t := by
  have r := WritesWithin.refl i s
  cases i
  case ldVxK x =>
    obtain rfl | ⟨b, rfl⟩ := exec_ldVxK_cases h
    · exact r.setWait _ _
    · exact ((r.setReg (by simp [writesReg]) b).setWait _ _).advance
  all_goals obtain rfl := Host.Outcome.next.inj h
  case ret =>
    split
    · exact r.raise _ _ _
    · exact (r.pop rfl).goto _
  case call nnn =>
    split
    · exact r.raise _ _ _
    · exact (r.push rfl _).goto _
  case jp | jpV0 => exact r.goto _
  case seImm | sneImm | seReg | sneReg => exact r.skipIf _
  case skp | sknp => exact WritesWithin.keySkip _ _ _ _ _
  case ldImm | addImm | ldReg | orReg | andReg | xorReg | ldVxDt =>
    exact (r.setReg (by simp [writesReg]) _).advance
  case rnd => exact (r.setReg (by simp [writesReg]) _).drawn.advance
  case addReg | sub | shr | subn | shl =>
    exact (r.writeFlagged (by simp [writesReg]) (by simp [writesReg]) _ _).advance
  case ldI | ldF => exact (r.setIndex rfl _).advance
  case addI => exact ((r.setIndex rfl _).setReg rfl _).advance
  case cls => exact (r.present rfl _).advance
  case drw => exact WritesWithin.afterRun (((r.present rfl _).setReg rfl _).advance) _ _ _
  case ldDtVx => exact (r.setDelay _).advance
  case ldStVx => exact (r.setSound _).advance
  case ldB | ldMemStore => exact WritesWithin.afterRun (r.storeRun rfl _ _).advance _ _ _
  case ldMemLoad x =>
    refine WritesWithin.afterRun (r.loadRegs fun k hk => ?_).advance _ _ _
    rw [State.length_loadRun] at hk
    simp only [writesReg, decide_eq_true_eq]
    omega

/-! ### The parts of `CoreInv`, one by one, after `exec` -/

/-- The cause and address of a fault entry as `recordSound` needs them (R32, R222). -/
def RaisesSoundly (c : FaultCause) (a : Nat) : Prop :=
  c ≠ .noFault ∧ (c ≠ .memoryBounds → a = 0) ∧ (c = .memoryBounds → 0x1000 ≤ a ∧ a < 0x10000)

theorem raisesSoundly_bounds (w : Word) : RaisesSoundly .memoryBounds (max w.toNat 0x1000) :=
  ⟨nofun, fun h => absurd rfl h, fun _ => by have := w.isLt; omega⟩

theorem raisesSoundly_zero {c : FaultCause} (h0 : c ≠ .noFault) (hm : c ≠ .memoryBounds) : RaisesSoundly c 0 :=
  ⟨h0, fun _ => rfl, fun h => absurd h hm⟩

theorem recordSound_raise {c : FaultCause} {a : Nat} (h : RaisesSoundly c a) (s : State) (w : Word) :
    recordSound (s.raise c w a) := by
  obtain ⟨hc, hzero, hbounds⟩ := h
  refine ⟨by simp [hc], nofun, fun hm => ?_, fun hm => ?_⟩
  · simp [hzero hm]
  · obtain ⟨hlow, hhigh⟩ := hbounds hm
    simpa [Nat.mod_eq_of_lt hhigh] using hlow

/-- The fault record, and whether the core is halted, are as before (R32). -/
def KeepsRecord (s t : State) : Prop :=
  t.halted = s.halted ∧ t.faultCause = s.faultCause ∧ t.faultPC = s.faultPC ∧ t.faultWord = s.faultWord ∧
    t.faultAddr = s.faultAddr

theorem KeepsRecord.recordSound (h : KeepsRecord s t) (hs : recordSound s) : recordSound t := by
  obtain ⟨hhalted, hcause, hpc, hword, haddr⟩ := h
  simpa only [Safety.recordSound, hhalted, hcause, hpc, hword, haddr] using hs

/-- The state `t` is a fault entry from `s` that records the word `w`, or has the fault record of `s` (R220, R222). -/
def RaisesOrKeepsRecord (w : Word) (s t : State) : Prop :=
  (∃ c a, t = s.raise c w a ∧ RaisesSoundly c a) ∨ KeepsRecord s t

theorem raisesOrKeepsRecord_afterRun (ht : KeepsRecord s t) (w : Word) (n : Nat) :
    RaisesOrKeepsRecord w s (s.afterRun w s.dataAddr n t) := by
  obtain ⟨-, heq⟩ | ⟨-, heq⟩ := afterRun_cases s w s.dataAddr n t
  · rw [heq]; exact .inr ht
  · exact .inl ⟨_, _, heq, raisesSoundly_bounds s.i⟩

theorem raisesOrKeepsRecord_keySkip (s : State) (w : Word) (k : Option (Fin 16)) (level : Bool) :
    RaisesOrKeepsRecord w s (s.keySkip w k level) := by
  obtain ⟨-, heq⟩ | ⟨j, -, heq⟩ := keySkip_cases s w k level
  · exact .inl ⟨_, _, heq, raisesSoundly_zero nofun nofun⟩
  · rw [heq]; exact .inr (by simp [KeepsRecord])

/-- A faulting instruction records its own word, any other leaves the record alone. -/
theorem exec_raisesOrKeepsRecord (h : exec i s = .next t) : RaisesOrKeepsRecord (encode i) s t := by
  cases i
  case ldVxK x => obtain rfl | ⟨b, rfl⟩ := exec_ldVxK_cases h <;> exact .inr (by simp [KeepsRecord])
  all_goals obtain rfl := Host.Outcome.next.inj h
  case call | ret =>
    split
    · exact .inl ⟨_, _, rfl, raisesSoundly_zero nofun nofun⟩
    · exact .inr (by simp [KeepsRecord])
  case drw | ldB | ldMemStore | ldMemLoad => exact raisesOrKeepsRecord_afterRun (by simp [KeepsRecord]) _ _
  case skp | sknp => exact raisesOrKeepsRecord_keySkip _ _ _ _
  case rnd => exact .inr ⟨rfl, rfl, rfl, rfl, rfl⟩
  all_goals exact .inr (by simp [KeepsRecord])

theorem recordSound_exec (hs : recordSound s) (h : exec i s = .next t) : recordSound t := by
  obtain ⟨c, a, rfl, hsound⟩ | hkeep := exec_raisesOrKeepsRecord h
  · exact recordSound_raise hsound s _
  · exact hkeep.recordSound hs

/-- A checked store keeps the canonical form of memory, since it writes nothing when the run does not fit (R52). -/
theorem wf_afterRun_storeRun (hs : Memory.wf s.params s.mem) (w : Word) (a n : Nat) {bs : List Byte}
    (hlen : bs.length = n) :
    Memory.wf (s.afterRun w a n (s.storeRun a bs).advance).params (s.afterRun w a n (s.storeRun a bs).advance).mem := by
  obtain ⟨hfit, heq⟩ | ⟨-, heq⟩ := afterRun_cases s w a n (s.storeRun a bs).advance
  · rw [heq]
    refine Memory.wf_writeRun s.params hs a bs (hfit.imp (fun h0 => ?_) (fun h => hlen ▸ h))
    exact List.length_eq_zero_iff.1 (hlen.trans h0)
  · rwa [heq]

theorem memory_wf_exec (hs : Memory.wf s.params s.mem) (h : exec i s = .next t) : Memory.wf t.params t.mem := by
  have w := exec_writesWithin h
  cases hst : storesBytes i with
  | false => rw [w.params, w.mem hst]; exact hs
  | true =>
    cases i with
    | ldB x =>
      obtain rfl := Host.Outcome.next.inj h
      exact wf_afterRun_storeRun hs _ _ _ rfl
    | ldMemStore x =>
      obtain rfl := Host.Outcome.next.inj h
      exact wf_afterRun_storeRun hs _ _ _ (length_regsUpTo s x)
    | _ => cases hst

theorem indexOf_fits (p : Config.Params) (a : Nat) : (indexOf p a).toNat < 2 ^ p.iWidth.bits := by
  rw [indexOf_toNat]
  exact Nat.mod_lt _ (Nat.two_pow_pos _)

theorem indexFits_exec (hs : indexFits s) (h : exec i s = .next t) : indexFits t := by
  have w := exec_writesWithin h
  cases hwi : writesIndex i with
  | false => rw [indexFits, w.params, w.index hwi]; exact hs
  | true =>
    cases i with
    | ldI | addI | ldF =>
      obtain rfl := Host.Outcome.next.inj h
      exact indexOf_fits s.params _
    | _ => cases hwi

/-- Only `FX0A` sets `WaitActive`, and it stays at its `PC` while it waits (R31, R202). -/
theorem waitSound_exec (hs : waitSound s) (hh : s.halted = false) (hf : s.fetchFits = true)
    (hd : decodeWord s.fetchWord = .ok i) (h : exec i s = .next t) : waitSound t := by
  intro ht
  by_cases hi : ∃ x, i = .ldVxK x
  · obtain ⟨x, rfl⟩ := hi
    obtain rfl | ⟨b, rfl⟩ := exec_ldVxK_cases h
    · exact ⟨hh, atKeyWait_of_decode hf hd⟩
    · cases ht
  · have hne : ∀ x, i ≠ .ldVxK x := fun x hx => hi ⟨x, hx⟩
    have ⟨hactive, _⟩ := (exec_writesWithin h).wait hne
    have ⟨_, hat⟩ := hs (hactive ▸ ht)
    rw [not_atKeyWait_of_decode hne hd] at hat
    cases hat

/-! The bounds of R99. The largest `PC` is the one of `BNNN`, 0xFFF + 0xFF. -/

theorem pc_advance_le (hs : s.pc.toNat ≤ 0xFFE) : s.advance.pc.toNat ≤ 0x10FE := by
  simp only [State.advance, State.goto]
  bv_omega

theorem pc_skipIf_le (hs : s.pc.toNat ≤ 0xFFE) (c : Bool) : (s.skipIf c).pc.toNat ≤ 0x10FE := by
  cases c <;> simp only [State.skipIf, State.goto, if_true, if_false, Bool.false_eq_true] <;> bv_omega

theorem addrOperand_le (nnn : Addr) : (addrOperand nnn).toNat ≤ 0xFFF := by
  simp only [addrOperand]
  bv_omega

theorem indexedTarget_le (nnn : Addr) (b : Byte) : (indexedTarget nnn b).toNat ≤ 0x10FE := by
  simp only [indexedTarget]
  bv_omega

theorem pc_afterRun_le {bound : Nat} (hs : s.pc.toNat ≤ bound) (ht : t.pc.toNat ≤ bound) (w : Word) (a n : Nat) :
    (s.afterRun w a n t).pc.toNat ≤ bound := by
  obtain ⟨-, heq⟩ | ⟨-, heq⟩ := afterRun_cases s w a n t
  · rwa [heq]
  · rwa [heq]

theorem pc_keySkip_le (hs : s.pc.toNat ≤ 0xFFE) (w : Word) (k : Option (Fin 16)) (level : Bool) :
    (s.keySkip w k level).pc.toNat ≤ 0x10FE := by
  obtain ⟨-, heq⟩ | ⟨j, -, heq⟩ := keySkip_cases s w k level
  · rw [heq]; exact Nat.le_trans hs (by decide)
  · rw [heq]; exact pc_skipIf_le hs _

/-- A popped return address is one of the stack's entries (R110, R99). -/
theorem top_add_two_le (hstack : ∀ k : Fin 16, s.stack[k].toNat ≤ 0xFFE) : (s.top + 2).toNat ≤ 0x1000 := by
  have htop : s.top.toNat ≤ 0xFFE := hstack ⟨s.sp.val - 1, by omega⟩
  bv_omega

theorem pc_exec_le (hpc : s.pc.toNat ≤ 0xFFE) (hstack : ∀ k : Fin 16, s.stack[k].toNat ≤ 0xFFE)
    (h : exec i s = .next t) : t.pc.toNat ≤ 0x10FE := by
  have hkeep : s.pc.toNat ≤ 0x10FE := Nat.le_trans hpc (by decide)
  cases i
  case ldVxK x =>
    obtain rfl | ⟨b, rfl⟩ := exec_ldVxK_cases h
    · exact hkeep
    · exact pc_advance_le hpc
  all_goals obtain rfl := Host.Outcome.next.inj h
  case ret =>
    split
    · exact hkeep
    · exact Nat.le_trans (top_add_two_le hstack) (by decide)
  case call nnn =>
    split
    · exact hkeep
    · exact Nat.le_trans (addrOperand_le nnn) (by decide)
  case jp nnn => exact Nat.le_trans (addrOperand_le nnn) (by decide)
  case jpV0 nnn => exact indexedTarget_le nnn _
  case seImm | sneImm | seReg | sneReg => exact pc_skipIf_le hpc _
  case skp | sknp => exact pc_keySkip_le hpc _ _ _
  case drw | ldB | ldMemStore | ldMemLoad =>
    refine pc_afterRun_le hkeep ?_ _ _ _
    exact pc_advance_le hpc
  case addReg | sub | shr | subn | shl => exact pc_advance_le (by simpa using hpc)
  all_goals exact pc_advance_le hpc

/-- A call pushes its own address, so that the stack holds addresses that were fetched from (R112, R99). -/
theorem stack_push_le (hpc : s.pc.toNat ≤ 0xFFE) (hstack : ∀ k : Fin 16, s.stack[k].toNat ≤ 0xFFE) (k : Fin 16) :
    (s.push s.pc).stack[k].toNat ≤ 0xFFE := by
  unfold State.push
  split
  · simp only [Fin.getElem_fin, Vector.getElem_set]
    split
    · exact hpc
    · exact hstack k
  · exact hstack k

theorem stack_exec_le (hpc : s.pc.toNat ≤ 0xFFE) (hstack : ∀ k : Fin 16, s.stack[k].toNat ≤ 0xFFE)
    (h : exec i s = .next t) (k : Fin 16) : t.stack[k].toNat ≤ 0xFFE := by
  have w := exec_writesWithin h
  cases hu : usesStack i with
  | false => rw [(w.stack hu).1]; exact hstack k
  | true =>
    cases i with
    | ret =>
      obtain rfl := Host.Outcome.next.inj h
      split
      · exact hstack k
      · exact hstack k
    | call nnn =>
      obtain rfl := Host.Outcome.next.inj h
      split
      · exact hstack k
      · exact stack_push_le hpc hstack k
    | _ => cases hu

/-! ### The invariant -/

/-- A fault entry keeps the invariant of a core that does not wait for a key. -/
theorem coreInv_raise (hs : CoreInv s) (hw : s.waitActive = false) {c : FaultCause} {a : Nat}
    (hc : RaisesSoundly c a) (w : Word) : CoreInv (s.raise c w a) := by
  obtain ⟨hmem, hindex, -, -, haddr⟩ := hs
  refine ⟨hmem, hindex, recordSound_raise hc s w, fun hactive => ?_, haddr⟩
  rw [State.raise_waitActive, hw] at hactive
  cases hactive

/-- The execution of the fetched instruction keeps the invariant. -/
theorem coreInv_exec (hs : CoreInv s) (hh : s.halted = false) (hf : s.pc.toNat + 1 < 4096)
    (hd : decodeWord s.fetchWord = .ok i) (h : exec i s = .next t) : CoreInv t := by
  obtain ⟨hmem, hindex, hrecord, hwait, -, hstack⟩ := hs
  have hpc : s.pc.toNat ≤ 0xFFE := by omega
  exact ⟨memory_wf_exec hmem h, indexFits_exec hindex h, recordSound_exec hrecord h,
    waitSound_exec hwait hh (decide_eq_true hf) hd h, pc_exec_le hpc hstack h, stack_exec_le hpc hstack h⟩

/-- A waiting core stands at an `FX0A`; where none is fetched, none waits (R31). -/
theorem waitActive_false_of_not_atKeyWait (hs : waitSound s) (h : atKeyWait s ≠ true) : s.waitActive = false :=
  Bool.eq_false_iff.2 fun hactive => h (hs hactive).2

theorem coreInv_step (hs : CoreInv s) (h : step s = .next t) : CoreInv t := by
  have ⟨_, _, _, hwait, _⟩ := hs
  unfold step at h
  obtain ⟨-, heq⟩ | ⟨-, hf, heq⟩ | ⟨-, -, e, he, heq⟩ | ⟨hh, hf, i, hd, heq⟩ := fetchDecode_cases s
  all_goals rw [heq] at h
  · cases h
    exact hs
  · cases h
    exact coreInv_raise hs (waitActive_false_of_not_atKeyWait hwait fun hat => hf (decode_of_atKeyWait hat).1)
      (raisesSoundly_bounds s.pc) 0
  · cases h
    refine coreInv_raise hs (waitActive_false_of_not_atKeyWait hwait fun hat => ?_)
      (raisesSoundly_zero (by decide) (by decide)) _
    obtain ⟨-, x, hx⟩ := decode_of_atKeyWait hat
    rw [he] at hx
    cases hx
  · exact coreInv_exec hs hh hf hd h

/-! ### Reset

The host's reset leaves the draw counter as it was (log 2), so the reset state is described with any counter. -/

theorem atReset_resetWith (p : Config.Params) (d : Nat) : AtReset { State.resetWith p with draws := d } := by
  have hread : ∀ a, State.readByte { State.resetWith p with draws := d } a = Memory.unlisted p a := fun _ => rfl
  refine ⟨fun a ha => ?_, fun a ha => ?_, fun k => ?_, rfl, rfl, fun k => ?_, rfl, rfl, rfl, fun px py => ?_, rfl,
    fun k => ?_, rfl, fun k => ?_, rfl, rfl, rfl, rfl, rfl⟩
  · rw [hread, Memory.unlisted, dif_pos ha]
    rfl
  · rw [hread, Memory.unlisted, dif_neg (by omega)]
  · simp [State.reg, State.resetWith]
  · simp [State.resetWith]
  · simp [State.cell, State.resetWith]
  · simp [State.resetWith]
  · simp [State.resetWith]

theorem coreInv_resetWith (p : Config.Params) (d : Nat) : CoreInv { State.resetWith p with draws := d } := by
  refine ⟨Memory.wf_nil p, Nat.two_pow_pos _, ⟨iff_of_true rfl rfl, fun _ => ⟨rfl, rfl⟩, fun _ => rfl, nofun⟩, nofun,
    (by decide : (0x200 : Word).toNat ≤ 0x10FE), fun k => ?_⟩
  simp [State.resetWith]

end

/-! ### The statements -/

/-- Settles O3: each part of the invariant by its own lemma about `exec`, assembled in `coreInv_step`. -/
theorem stepKeepsInv : Obligations.StepKeepsInv := fun _ _ => coreInv_step

/-- Settles O54: the matrix of R37, from `exec_writesWithin`. -/
theorem writesFollowTheAccessMatrix : Obligations.WritesFollowTheAccessMatrix := by
  intro i s t h
  have w := exec_writesWithin h
  exact ⟨w.key, w.params, w.dirty, w.reg, w.index, w.stack,
    fun hi a => by rw [State.readByte, State.readByte, w.params, w.mem hi], w.screen, w.delay, w.sound, w.wait⟩

/-- Settles O1: reset with any parameters and any draw counter is `AtReset`. -/
theorem resetLeavesStatedValues : Obligations.ResetLeavesStatedValues :=
  ⟨atReset_resetWith _ 0, fun p => ⟨atReset_resetWith p 0, rfl⟩, fun s => ⟨atReset_resetWith s.params s.draws, rfl⟩,
    fun _ => rfl⟩

/-- Settles O2: the same reset state meets `CoreInv`, and no key wait is active in it. -/
theorem resetEstablishesInv : Obligations.ResetEstablishesInv :=
  ⟨fun p => coreInv_resetWith p 0, coreInv_resetWith _ 0, fun x =>
    ⟨_, rfl, coreInv_resetWith x.core.params x.core.draws, fun _ => rfl⟩⟩

end Sys2Proof.Proofs
end

section
/-!
PROOFS. The family of memory: a byte stored by `FX55` is seen by the next fetch (R64).
-/

namespace Sys2Proof.Proofs

open Sys2Proof Sys2Proof.Machine Sys2Proof.Claims

variable {s : State}

/-- A fetch that passes the checks of the cycle driver runs the decoded instruction (R90, R92). -/
theorem step_eq_exec {i : Instr} (hh : s.halted = false) (hf : s.pc.toNat + 1 < 4096)
    (hd : decodeWord s.fetchWord = .ok i) : step s = exec i s := by
  have hfetch : s.fetchDecode = .ok i := by
    simp [State.fetchDecode, State.fetchFits, hh, hd, Config.memSize, hf]
  rw [step, hfetch]

/-- `FX55` whose run fits stores the registers and moves on (R164). -/
theorem exec_ldMemStore_of_fits {x : Nibble} (hfit : s.i.toNat + x.toNat < 4096) :
    exec (.ldMemStore x) s = .next (s.storeRun s.dataAddr (s.regsUpTo x)).advance := by
  have hruns : runFits s.dataAddr (x.toNat + 1) = true := decide_eq_true (.inr hfit)
  exact congrArg Host.Outcome.next (if_pos hruns)

/-- Moving `PC` changes no byte of memory. -/
@[simp] theorem readByte_advance (s : State) (a : Nat) : s.advance.readByte a = s.readByte a := rfl

/-- The `k`-th byte of the run `FX55` stores reads back as `V[k]`, in a canonical memory (R55, R164). -/
theorem readByte_storeRun_regsUpTo {x k : Nibble} (hm : Memory.wf s.params s.mem)
    (hfit : s.i.toNat + x.toNat < 4096) (hk : k.toNat ≤ x.toNat) :
    (s.storeRun s.dataAddr (s.regsUpTo x)).readByte (s.dataAddr + k.toNat) = s.reg k := by
  have hlen := length_regsUpTo s x
  rw [State.readByte_storeRun_inside s hm _ _ (by rw [hlen]; exact hfit) k.toNat (by omega), getElem_regsUpTo,
    reg_eq_getElem]

/-- After `F155` with `I = PC + 2` the next fetch reads the two registers it stored, `V[0]` first (R54, R64). -/
theorem fetchWord_advance_storeRun_regsUpTo (hm : Memory.wf s.params s.mem) (hi : s.i = s.pc + 2)
    (hfit : s.i.toNat + (1 : Nibble).toNat < 4096) :
    (s.storeRun s.dataAddr (s.regsUpTo 1)).advance.fetchWord = s.reg 0 ++ s.reg 1 := by
  have hhigh : (s.storeRun s.dataAddr (s.regsUpTo 1)).readByte s.dataAddr = s.reg 0 :=
    readByte_storeRun_regsUpTo (k := 0) hm hfit (by decide)
  have hlow : (s.storeRun s.dataAddr (s.regsUpTo 1)).readByte (s.dataAddr + 1) = s.reg 1 :=
    readByte_storeRun_regsUpTo (k := 1) hm hfit (by decide)
  rw [State.fetchWord, State.advance_pc, State.storeRun_pc, ← hi, readByte_advance, readByte_advance, hhigh, hlow,
    wordOfBytes]

/-- Settles O39: `F155` moves `PC` to `I`, so its two stored bytes are the next word fetched. -/
theorem storedWordIsFetchedNext : Obligations.StoredWordIsFetchedNext := by
  intro s t hm hh hpc hi h
  have hrun : (s.pc + 2).toNat + 1 < 4096 := by bv_omega
  have hfit : s.i.toNat + (1 : Nibble).toNat < 4096 := hi ▸ hrun
  rw [exec_ldMemStore_of_fits hfit] at h
  obtain rfl := Host.Outcome.next.inj h
  have hfetch := fetchWord_advance_storeRun_regsUpTo hm hi hfit
  exact ⟨hfetch, fun i hd => step_eq_exec hh hrun (hfetch ▸ hd)⟩

end Sys2Proof.Proofs
end

section
/-!
PROOFS. The family of the encoding: the decoder and the encoder are inverse to each other (R71, R72), the decoder follows
the opcode table (R75), and the illegal words are those of R76.
-/

namespace Sys2Proof.Proofs

open Sys2Proof Sys2Proof.Machine Sys2Proof.Claims Sys2Proof.Laws

/-! ### The fields of a format (R71, R72) -/

@[simp] theorem fieldClass_formatNNN (c : Nibble) (nnn : Addr) : fieldClass (formatNNN c nnn) = c := by
  apply BitVec.eq_of_toNat_eq
  rw [fieldClass_toNat, formatNNN_toNat]
  omega

@[simp] theorem fieldNNN_formatNNN (c : Nibble) (nnn : Addr) : fieldNNN (formatNNN c nnn) = nnn := by
  apply BitVec.eq_of_toNat_eq
  rw [fieldNNN_toNat, formatNNN_toNat]
  omega

@[simp] theorem fieldClass_formatXNN (c x : Nibble) (nn : Byte) : fieldClass (formatXNN c x nn) = c := by
  apply BitVec.eq_of_toNat_eq
  rw [fieldClass_toNat, formatXNN_toNat]
  omega

@[simp] theorem fieldX_formatXNN (c x : Nibble) (nn : Byte) : fieldX (formatXNN c x nn) = x := by
  apply BitVec.eq_of_toNat_eq
  rw [fieldX_toNat, formatXNN_toNat]
  omega

@[simp] theorem fieldNN_formatXNN (c x : Nibble) (nn : Byte) : fieldNN (formatXNN c x nn) = nn := by
  apply BitVec.eq_of_toNat_eq
  rw [fieldNN_toNat, formatXNN_toNat]
  omega

@[simp] theorem fieldClass_formatXYN (c x y n : Nibble) : fieldClass (formatXYN c x y n) = c := by
  apply BitVec.eq_of_toNat_eq
  rw [fieldClass_toNat, formatXYN_toNat]
  omega

@[simp] theorem fieldX_formatXYN (c x y n : Nibble) : fieldX (formatXYN c x y n) = x := by
  apply BitVec.eq_of_toNat_eq
  rw [fieldX_toNat, formatXYN_toNat]
  omega

@[simp] theorem fieldY_formatXYN (c x y n : Nibble) : fieldY (formatXYN c x y n) = y := by
  apply BitVec.eq_of_toNat_eq
  rw [fieldY_toNat, formatXYN_toNat]
  omega

@[simp] theorem fieldN_formatXYN (c x y n : Nibble) : fieldN (formatXYN c x y n) = n := by
  apply BitVec.eq_of_toNat_eq
  rw [fieldN_toNat, formatXYN_toNat]
  omega

/-! ### Decoding what was encoded -/

/-- The word of an instruction decodes to it: its format gives back the fields, and class and subcode select it. -/
theorem decodeWord_encode (i : Instr) : decodeWord (encode i) = .ok i := by
  cases i
  case cls | ret => rfl
  case jp | call | ldI | jpV0 => simp [encode, decodeWord]
  case seImm | sneImm | ldImm | addImm | rnd => simp [encode, decodeWord]
  case seReg | sneReg | drw => simp [encode, decodeWord]
  case ldReg | orReg | andReg | xorReg | addReg | sub | shr | subn | shl => simp [encode, decodeWord, decodeClass8]
  case skp | sknp => simp [encode, decodeWord, decodeClassE]
  case ldVxDt | ldVxK | ldDtVx | ldStVx | addI | ldF | ldB | ldMemStore | ldMemLoad =>
    simp [encode, decodeWord, decodeClassF]

/-- The two bytes of an instruction decode to it and leave over what follows (R54, R70). -/
theorem decodeBytes_encodeBytes_append (i : Instr) (rest : List Byte) :
    decodeBytes (encodeBytes i ++ rest) = .ok (i, rest) := by
  simp [encodeBytes, decodeBytes, wordOfBytes_highByte_lowByte, decodeWord_encode]

/-! ### What the decoder can answer

A word that has the class and the subcode of a format is that format of its own fields. -/

section
variable {w : Word}

theorem formatNNN_fields {c : Nibble} (hc : (fieldClass w).toNat = c.toNat) : formatNNN c (fieldNNN w) = w := by
  apply BitVec.eq_of_toNat_eq
  rw [formatNNN_toNat, fieldNNN_toNat, ← hc, fieldClass_toNat]
  omega

theorem formatXNN_fields {c : Nibble} {nn : Byte} (hc : (fieldClass w).toNat = c.toNat)
    (hnn : (fieldNN w).toNat = nn.toNat) : formatXNN c (fieldX w) nn = w := by
  apply BitVec.eq_of_toNat_eq
  rw [formatXNN_toNat, fieldX_toNat, ← hc, ← hnn, fieldClass_toNat, fieldNN_toNat]
  omega

theorem formatXYN_fields {c n : Nibble} (hc : (fieldClass w).toNat = c.toNat) (hn : (fieldN w).toNat = n.toNat) :
    formatXYN c (fieldX w) (fieldY w) n = w := by
  apply BitVec.eq_of_toNat_eq
  rw [formatXYN_toNat, fieldX_toNat, fieldY_toNat, ← hc, ← hn, fieldClass_toNat, fieldN_toNat]
  omega

/-- What a decoder of the word `w` may answer: an instruction whose word is `w`, or the verdict `illegal` on `w`. -/
inductive Decodes (w : Word) : Except DecodeError Instr → Prop
  | ok {i : Instr} (h : encode i = w) : Decodes w (.ok i)
  | illegal : Decodes w (.error (.illegal w))

theorem decodes_decodeClass0 (w : Word) : Decodes w (decodeClass0 w) := by
  unfold decodeClass0
  split
  · exact .ok (Eq.symm ‹_›)
  · split
    · exact .ok (Eq.symm ‹_›)
    · exact .illegal

theorem decodes_decodeClass8 (hc : (fieldClass w).toNat = 0x8) : Decodes w (decodeClass8 w) := by
  unfold decodeClass8
  split
  case h_10 => exact .illegal
  all_goals exact .ok (formatXYN_fields hc ‹_›)

theorem decodes_decodeClassE (hc : (fieldClass w).toNat = 0xE) : Decodes w (decodeClassE w) := by
  unfold decodeClassE
  split
  case h_3 => exact .illegal
  all_goals exact .ok (formatXNN_fields hc ‹_›)

theorem decodes_decodeClassF (hc : (fieldClass w).toNat = 0xF) : Decodes w (decodeClassF w) := by
  unfold decodeClassF
  split
  case h_10 => exact .illegal
  all_goals exact .ok (formatXNN_fields hc ‹_›)

/-- A subcode 0 in the low nibble selects the instruction of classes 5 and 9 (R74). -/
theorem decodes_of_zero_subcode {i : Instr} {c : Nibble} (hc : (fieldClass w).toNat = c.toNat)
    (hi : encode i = formatXYN c (fieldX w) (fieldY w) 0) :
    Decodes w (if fieldN w = 0 then .ok i else .error (.illegal w)) := by
  split
  · rename_i hn
    exact .ok (hi.trans (formatXYN_fields hc (congrArg BitVec.toNat hn)))
  · exact .illegal

/-- The branch `h_n` is the class `n - 1`; the last one, no class, is never taken. -/
theorem decodes_decodeWord (w : Word) : Decodes w (decodeWord w) := by
  unfold decodeWord
  split
  case h_1 => exact decodes_decodeClass0 w
  case h_9 hc => exact decodes_decodeClass8 hc
  case h_15 hc => exact decodes_decodeClassE hc
  case h_16 hc => exact decodes_decodeClassF hc
  case h_6 hc => exact decodes_of_zero_subcode (c := 0x5) hc rfl
  case h_10 hc => exact decodes_of_zero_subcode (c := 0x9) hc rfl
  case h_2 hc | h_3 hc | h_11 hc | h_12 hc => exact .ok (formatNNN_fields hc)
  case h_4 hc | h_5 hc | h_7 hc | h_8 hc | h_13 hc => exact .ok (formatXNN_fields hc rfl)
  case h_14 hc => exact .ok (formatXYN_fields hc rfl)
  case h_17 => exact .illegal

theorem encode_of_decodeWord {i : Instr} (h : decodeWord w = .ok i) : encode i = w := by
  obtain ⟨hi⟩ := h ▸ decodes_decodeWord w
  exact hi

/-- The decoder's only verdict on a word it rejects is `illegal`, of that word (R76, R93). -/
theorem decodeWord_error {e : DecodeError} (h : decodeWord w = .error e) : e = .illegal w := by
  cases h ▸ decodes_decodeWord w
  rfl

/-! ### Rows of the opcode table (R75) -/

theorem row_mem_opcodeTable (i : Instr) : i.row ∈ opcodeTable := by
  cases i <;> simp [Instr.row, opcodeTable]

/-- Every row of the table is the row of an instruction: the one its pattern, with every operand 0, decodes to. -/
theorem exists_row_eq {r : OpcodeRow} (hr : r ∈ opcodeTable) : ∃ i : Instr, i.row = r := by
  have htable : ∀ r ∈ opcodeTable, (decodeWord r.pattern).map Instr.row = .ok r := by decide
  have h := htable r hr
  cases hd : decodeWord r.pattern with
  | error e => rw [hd] at h; cases h
  | ok i => rw [hd] at h; exact ⟨i, Except.ok.inj h⟩

/-- The word of every instruction matches the instruction's own row. -/
theorem matchesWord_encode : ∀ i : Instr, i.row.matchesWord (encode i) = true
  | .cls => EncodeMatches.cls | .ret => EncodeMatches.ret
  | .jp nnn => EncodeMatches.jp nnn | .call nnn => EncodeMatches.call nnn
  | .seImm x nn => EncodeMatches.seImm x nn | .sneImm x nn => EncodeMatches.sneImm x nn
  | .seReg x y => EncodeMatches.seReg x y
  | .ldImm x nn => EncodeMatches.ldImm x nn | .addImm x nn => EncodeMatches.addImm x nn
  | .ldReg x y => EncodeMatches.ldReg x y | .orReg x y => EncodeMatches.orReg x y
  | .andReg x y => EncodeMatches.andReg x y | .xorReg x y => EncodeMatches.xorReg x y
  | .addReg x y => EncodeMatches.addReg x y | .sub x y => EncodeMatches.sub x y
  | .shr x y => EncodeMatches.shr x y | .subn x y => EncodeMatches.subn x y | .shl x y => EncodeMatches.shl x y
  | .sneReg x y => EncodeMatches.sneReg x y
  | .ldI nnn => EncodeMatches.ldI nnn | .jpV0 nnn => EncodeMatches.jpV0 nnn
  | .rnd x nn => EncodeMatches.rnd x nn | .drw x y n => EncodeMatches.drw x y n
  | .skp x => EncodeMatches.skp x | .sknp x => EncodeMatches.sknp x
  | .ldVxDt x => EncodeMatches.ldVxDt x | .ldVxK x => EncodeMatches.ldVxK x
  | .ldDtVx x => EncodeMatches.ldDtVx x | .ldStVx x => EncodeMatches.ldStVx x
  | .addI x => EncodeMatches.addI x | .ldF x => EncodeMatches.ldF x | .ldB x => EncodeMatches.ldB x
  | .ldMemStore x => EncodeMatches.ldMemStore x | .ldMemLoad x => EncodeMatches.ldMemLoad x

theorem row_matches_of_decodeWord {i : Instr} (h : decodeWord w = .ok i) : w &&& i.row.mask = i.row.pattern := by
  have hmatch := matchesWord_encode i
  rw [encode_of_decodeWord h] at hmatch
  exact eq_of_beq hmatch

theorem fieldClass_of_mask_F000 {p : Word} (h : w &&& 0xF000#16 = p) : (fieldClass w).toNat = p.toNat / 4096 := by
  rw [← h, mask_F000_toNat, fieldClass_toNat]
  omega

theorem fields_of_mask_F00F {p : Word} (h : w &&& 0xF00F#16 = p) :
    (fieldClass w).toNat = p.toNat / 4096 ∧ (fieldN w).toNat = p.toNat % 16 := by
  rw [← h, mask_F00F_toNat, fieldClass_toNat, fieldN_toNat]
  omega

theorem fields_of_mask_F0FF {p : Word} (h : w &&& 0xF0FF#16 = p) :
    (fieldClass w).toNat = p.toNat / 4096 ∧ (fieldNN w).toNat = p.toNat % 256 := by
  rw [← h, mask_F0FF_toNat, fieldClass_toNat, fieldNN_toNat]
  omega

theorem fieldN_eq_zero_iff : fieldN w = 0#4 ↔ (fieldN w).toNat = 0 := by
  rw [← BitVec.toNat_inj]
  rfl

/-- A word that matches a row decodes to an instruction of that row: the bits that the mask keeps are the class and the
subcode by which the decoder selects. -/
theorem exists_decodeWord_of_row_matches (i : Instr) (h : w &&& i.row.mask = i.row.pattern) :
    ∃ j, decodeWord w = .ok j ∧ j.row = i.row := by
  cases i
  case cls | ret =>
    obtain rfl := (BitVec.and_allOnes (x := w)).symm.trans h
    exact ⟨_, rfl, rfl⟩
  case jp | call | seImm | sneImm | ldImm | addImm | ldI | jpV0 | rnd | drw =>
    have hclass := fieldClass_of_mask_F000 h
    simp [decodeWord, hclass, Instr.row]
  case seReg | sneReg =>
    obtain ⟨hclass, hn⟩ := fields_of_mask_F00F h
    simp [decodeWord, fieldN_eq_zero_iff, hclass, hn, Instr.row]
  case ldReg | orReg | andReg | xorReg | addReg | sub | shr | subn | shl =>
    obtain ⟨hclass, hn⟩ := fields_of_mask_F00F h
    simp [decodeWord, decodeClass8, hclass, hn, Instr.row]
  case skp | sknp =>
    obtain ⟨hclass, hnn⟩ := fields_of_mask_F0FF h
    simp [decodeWord, decodeClassE, hclass, hnn, Instr.row]
  case ldVxDt | ldVxK | ldDtVx | ldStVx | addI | ldF | ldB | ldMemStore | ldMemLoad =>
    obtain ⟨hclass, hnn⟩ := fields_of_mask_F0FF h
    simp [decodeWord, decodeClassF, hclass, hnn, Instr.row]

/-- A word that matches a row of the table decodes to an instruction of that row (R75). -/
theorem exists_decodeWord_of_matches {r : OpcodeRow} (hr : r ∈ opcodeTable) (h : w &&& r.mask = r.pattern) :
    ∃ i, decodeWord w = .ok i ∧ i.row = r := by
  obtain ⟨i, rfl⟩ := exists_row_eq hr
  exact exists_decodeWord_of_row_matches i h

/-- The rows do not overlap, since the decoder gives a word one instruction (R74). -/
theorem row_unique {r r' : OpcodeRow} (hr : r ∈ opcodeTable) (hr' : r' ∈ opcodeTable) (h : w &&& r.mask = r.pattern)
    (h' : w &&& r'.mask = r'.pattern) : r = r' := by
  obtain ⟨i, hi, rfl⟩ := exists_decodeWord_of_matches hr h
  obtain ⟨j, hj, rfl⟩ := exists_decodeWord_of_matches hr' h'
  obtain rfl := Except.ok.inj (hi.symm.trans hj)
  rfl

theorem no_row_matches_iff_illegal :
    (∀ r ∈ opcodeTable, w &&& r.mask ≠ r.pattern) ↔ decodeWord w = .error (.illegal w) := by
  constructor
  · intro hnone
    cases hd : decodeWord w with
    | ok i => exact absurd (row_matches_of_decodeWord hd) (hnone _ (row_mem_opcodeTable i))
    | error e => rw [decodeWord_error hd]
  · intro hillegal r hr hmatch
    obtain ⟨i, hi, -⟩ := exists_decodeWord_of_matches hr hmatch
    cases hillegal.symm.trans hi

/-! ### The illegal words of each class (R76) -/

theorem decodeClass0_illegal_iff : decodeClass0 w = .error (.illegal w) ↔ w ≠ 0x00E0 ∧ w ≠ 0x00EE := by
  unfold decodeClass0
  split_ifs with hcls hret
  · simp [hcls]
  · simp [hret]
  · exact iff_of_true rfl ⟨hcls, hret⟩

theorem decodeClass8_illegal_iff :
    decodeClass8 w = .error (.illegal w) ↔ w.toNat % 16 ∈ [8, 9, 10, 11, 12, 13, 15] := by
  unfold decodeClass8
  have hlt : w.toNat % 16 < 16 := Nat.mod_lt _ (by decide)
  rw [fieldN_toNat]
  generalize w.toNat % 16 = n at hlt
  interval_cases n <;> simp

theorem decodeClassE_illegal_iff : decodeClassE w = .error (.illegal w) ↔ w.toNat % 256 ∉ [0x9E, 0xA1] := by
  unfold decodeClassE
  rw [fieldNN_toNat]
  split <;> simp_all

theorem decodeClassF_illegal_iff : decodeClassF w = .error (.illegal w) ↔
    w.toNat % 256 ∉ [0x07, 0x0A, 0x15, 0x18, 0x1E, 0x29, 0x33, 0x55, 0x65] := by
  unfold decodeClassF
  rw [fieldNN_toNat]
  split <;> simp_all

end

/-! ### An illegal word in the cycle driver -/

/-- A fetched word that does not decode ends the step in the fault `ILLEGAL_INSTRUCTION` (R93). -/
theorem step_of_decodeWord_error {s : State} {e : DecodeError} (hh : s.halted = false) (hf : s.pc.toNat + 1 < 4096)
    (hd : decodeWord s.fetchWord = .error e) : step s = .next (s.raise .illegalInstruction s.fetchWord 0) := by
  have hfetch : s.fetchDecode = .error (s.raise .illegalInstruction s.fetchWord 0) := by
    simp [State.fetchDecode, State.fetchFits, hh, hd, Config.memSize, hf]
  rw [step, hfetch]

/-! ### The statements -/

/-- Settles O14: the word by `decodeWord_encode`, its two bytes by `decodeBytes_encodeBytes_append`. -/
theorem decodeOfEncodeReturnsInstruction : Obligations.DecodeOfEncodeReturnsInstruction :=
  fun i rest => ⟨decodeWord_encode i, decodeBytes_encodeBytes_append i rest⟩

/-- Settles O15: the decoder answers only instructions whose word it was given (`decodes_decodeWord`). -/
theorem encodeOfDecodeReturnsWord : Obligations.EncodeOfDecodeReturnsWord := fun _ _ => encode_of_decodeWord

/-- Settles O16: a word matches a row exactly when it decodes to an instruction of that row. -/
theorem decoderFollowsOpcodeTable : Obligations.DecoderFollowsOpcodeTable :=
  ⟨fun _ i h => ⟨row_mem_opcodeTable i, row_matches_of_decodeWord h⟩, fun _ _ _ => row_unique,
    fun _ => no_row_matches_iff_illegal⟩

/-- Settles O17: the words of R76, class by class (the branch `h_n` is the class `n - 1`); the classes that it does not
name have no illegal word. -/
theorem illegalWordsAreThoseListed : Obligations.IllegalWordsAreThoseListed := by
  intro w
  have hlt : w.toNat / 4096 < 16 := by have := w.isLt; omega
  unfold decodeWord
  rw [fieldClass_toNat]
  split
  case h_1 hc => simp [hc, decodeClass0_illegal_iff]
  case h_6 hc | h_10 hc => simp [hc, fieldN_eq_zero_iff, fieldN_toNat]
  case h_9 hc => simp [hc, decodeClass8_illegal_iff]
  case h_15 hc => simp [hc, decodeClassE_illegal_iff]
  case h_16 hc => simp [hc, decodeClassF_illegal_iff]
  case h_17 => simp only [imp_false] at *; omega
  all_goals simp [*]

/-- Settles O8: the step by `step_of_decodeWord_error`; the fault entry is the record over the unchanged state. -/
theorem illegalWordFaults : Obligations.IllegalWordFaults := by
  rintro s _ e hh hf rfl hd
  exact step_of_decodeWord_error hh hf hd

/-- Settles O18: the decoder evaluated on each word. -/
theorem sampleWordsDecode : Obligations.SampleWordsDecode := by
  unfold Obligations.SampleWordsDecode
  decide

end Sys2Proof.Proofs
end

section
/-!
PROOFS. The family of the cycle driver: the fetch and its bounds (R92), a halted core (R91, R223), the random byte
(R90, R97), a key wait (R96), and the `PC` that a step commits (R94, R99).
-/

namespace Sys2Proof.Proofs

open Sys2Proof Sys2Proof.Machine Sys2Proof.Safety Sys2Proof.Claims

section
variable {i : Instr} {s t : State}

/-! ### The step before dispatch -/

/-- A halted core fetches nothing (R91). -/
theorem fetchDecode_of_halted (hh : s.halted = true) : s.fetchDecode = .error s := by
  simp [State.fetchDecode, hh]

theorem step_of_halted (hh : s.halted = true) : step s = .next s := by
  rw [step, fetchDecode_of_halted hh]

theorem stepWith_of_halted (r : Byte) (hh : s.halted = true) : stepWith r s = .next s := by
  rw [stepWith, fetchDecode_of_halted hh]

/-- A fetch outside memory ends the step in `MEMORY_BOUNDS`, with the word 0 recorded (R92). -/
theorem step_of_fetch_outside (hh : s.halted = false) (hf : 4096 ≤ s.pc.toNat + 1) :
    step s = .next (s.raise .memoryBounds 0 (max s.pc.toNat 0x1000)) := by
  have hfetch : s.fetchDecode = .error (s.raise .memoryBounds 0 (max s.pc.toNat 0x1000)) := by
    have hout : ¬ s.pc.toNat + 1 < 4096 := by omega
    simp [State.fetchDecode, State.fetchFits, lowestOutside, hh, Config.memSize, hout]
  rw [step, hfetch]

/-- Only the arm of `CXNN` uses the byte that the step is given (R90, R97). -/
theorem stepWith_eq_step (r : Byte) (hrnd : ∀ x nn, s.fetchDecode ≠ .ok (.rnd x nn)) : stepWith r s = step s := by
  unfold stepWith step
  split
  case h_1 x nn hfetch => exact absurd hfetch (hrnd x nn)
  case h_2 hfetch => rw [hfetch]
  case h_3 hfetch => rw [hfetch]

/-- A waiting core is not halted and its step executes `FX0A` (R31). -/
theorem step_of_waiting (hs : waitSound s) (hw : s.waitActive = true) :
    s.halted = false ∧ ∃ x, step s = exec (.ldVxK x) s := by
  obtain ⟨hh, hat⟩ := hs hw
  obtain ⟨hf, x, hd⟩ := decode_of_atKeyWait hat
  exact ⟨hh, x, step_eq_exec hh hf hd⟩

/-! ### What an instruction leaves of the draw counter -/

theorem draws_afterRun (w : Word) (a n : Nat) (ht : t.draws = s.draws) :
    (s.afterRun w a n t).draws = s.draws := by
  obtain ⟨-, heq⟩ | ⟨-, heq⟩ := afterRun_cases s w a n t
  · rw [heq, ht]
  · rw [heq, State.raise_draws]

theorem draws_keySkip (w : Word) (k : Option (Fin 16)) (level : Bool) :
    (s.keySkip w k level).draws = s.draws := by
  obtain ⟨-, heq⟩ | ⟨j, -, heq⟩ := keySkip_cases s w k level
  · rw [heq, State.raise_draws]
  · rw [heq, State.skipIf_draws]

theorem draws_exec (hrnd : ∀ x nn, i ≠ .rnd x nn) (h : exec i s = .next t) : t.draws = s.draws := by
  cases i
  case rnd x nn => exact absurd rfl (hrnd x nn)
  case ldVxK x => obtain rfl | ⟨b, rfl⟩ := exec_ldVxK_cases h <;> rfl
  all_goals obtain rfl := Host.Outcome.next.inj h
  case ret | call =>
    split
    · rfl
    · simp
  case drw | ldB | ldMemStore | ldMemLoad => exact draws_afterRun _ _ _ rfl
  case skp | sknp => exact draws_keySkip _ _ _
  case addReg | sub | shr | subn | shl => simp
  all_goals rfl

/-! ### The `PC` that an instruction commits -/

/-- A fault in `exec` leaves `PC` (R95, R222). -/
theorem pc_exec_of_fault (hh : s.halted = false) (h : exec i s = .next t) (ht : t.halted = true) : t.pc = s.pc := by
  obtain ⟨c, a, rfl, -⟩ | ⟨hhalted, -⟩ := exec_raisesOrKeepsRecord h
  · rfl
  · rw [hhalted, hh] at ht
    cases ht

/-- A checked run after which the core is not halted answers the given state (R52). -/
theorem afterRun_of_running {w : Word} {a n : Nat} (hrun : (s.afterRun w a n t).halted = false) :
    s.afterRun w a n t = t := by
  obtain ⟨-, heq⟩ | ⟨-, heq⟩ := afterRun_cases s w a n t
  · exact heq
  · rw [heq] at hrun
    cases hrun

/-- An instruction that R94's table does not name moves `PC` on by 2 when it does not fault. -/
theorem pc_exec_of_plain (hi : setsPc i = false) (h : exec i s = .next t) (ht : t.halted = false) :
    t.pc = s.pc + 2 := by
  cases i
  case ret | jp | call | jpV0 | seImm | sneImm | seReg | sneReg | skp | sknp | ldVxK => cases hi
  all_goals obtain rfl := Host.Outcome.next.inj h
  case drw | ldB | ldMemStore | ldMemLoad =>
    rw [afterRun_of_running ht]
    rfl
  case addReg | sub | shr | subn | shl => simp
  all_goals rfl

/-! ### The host's moves on a halted core -/

/-- After the first reset the host may make any of these moves (R267). -/
theorem afterReset_eq_some {x : Session} (hx : x.phase ≠ .unreset) (r : State × Reply) :
    x.afterReset r = some ({ x with core := r.1 }, r.2) := by
  unfold Session.afterReset
  split
  case h_1 hp => exact absurd hp hx
  all_goals rfl

theorem move_setKey {x : Session} (hx : x.phase ≠ .unreset) {k : Byte} (hk : k.toNat < 16) (held : Bool) :
    x.move (.setKey k held) = some ({ x with core := hostSetKey ⟨k.toNat, hk⟩ held x.core }, .nothing) := by
  rw [Session.move, dif_pos hk, afterReset_eq_some hx]

/-- `step` as a move goes on with the state that `stepWith` answers (R90, R240). -/
theorem moveStep_some {x y : Session} {r : Byte} {q : Reply} (h : x.moveStep r = some (y, q)) :
    stepWith r x.core = .next y.core := by
  obtain ⟨t, ht⟩ := stepWith_next x.core r
  unfold Session.moveStep at h
  rw [ht] at h ⊢
  split at h
  case h_3 | h_4 => cases h
  all_goals
    cases h
    rfl

/-- Every move but a reset leaves a halted core halted (R91, R223). -/
theorem halted_move {op : HostOp} {x y : Session} {r : Reply} (hh : x.core.halted = true) (hop : op ≠ .reset)
    (h : x.move op = some (y, r)) : y.core.halted = true := by
  cases op with
  | reset => exact absurd rfl hop
  | load image =>
    obtain ⟨-, ⟨hcore, -⟩ | ⟨hcore, -⟩⟩ := moveLoad_cases h
    · rw [hcore, State.storeRun_halted, hh]
    · rw [hcore, hh]
  | step b =>
    have hstep := moveStep_some h
    rw [stepWith_of_halted b hh] at hstep
    rw [← Host.Outcome.next.inj hstep, hh]
  | tick => rw [(afterReset_some h).1, hostTick_halted, hh]
  | setKey k held =>
    simp only [Session.move] at h
    split at h
    · rw [(afterReset_some h).1, hostSetKey_halted, hh]
    · cases h
  | clearDirty => rw [(afterReset_some h).1, hostClearDirty_halted, hh]
  | readFb | readFault => rw [(afterReset_some h).1, hh]

end

/-! ### The statements -/

/-- Settles O11: a halted step stops before the fetch, each port is a move after reset, and `halted_move`. -/
theorem haltedCoreStaysUntilReset : Obligations.HaltedCoreStaysUntilReset := by
  refine ⟨fun s hh => ⟨step_of_halted hh, fun r => stepWith_of_halted r hh, ?_, ?_⟩,
    fun x hh hx => ⟨fun k hk held => move_setKey hx hk held, afterReset_eq_some hx _, afterReset_eq_some hx _,
      hostReadFault x.core, afterReset_eq_some hx _, hh, rfl, rfl, rfl, rfl⟩,
    fun _ _ _ _ => halted_move, fun _ => ⟨_, rfl, rfl⟩⟩
  · rw [State.status, if_pos hh]
  · rw [hostTick, if_pos hh]

/-- Settles O12: without `CXNN` the step with any byte is `step`. -/
theorem onlyRndReadsRandomByte : Obligations.OnlyRndReadsRandomByte := fun _ r r' hrnd =>
  ⟨(stepWith_eq_step r hrnd).trans (stepWith_eq_step r' hrnd).symm, stepWith_eq_step r hrnd⟩

/-- Settles O47: the waiting step is an `FX0A`, which goes on waiting or completes. -/
theorem waitingStepTouchesOnlyTheWait : Obligations.WaitingStepTouchesOnlyTheWait := by
  rintro s t ⟨-, -, -, hwait, -⟩ hw h
  obtain ⟨hh, x, hstep⟩ := step_of_waiting hwait hw
  rw [hstep] at h
  obtain rfl | ⟨b, rfl⟩ := exec_ldVxK_cases h
  · exact ⟨rfl, fun _ => ⟨rfl, rfl, by simp [State.status, hh]⟩, nofun⟩
  · exact ⟨rfl, nofun, fun _ => ⟨rfl, by simp [State.status, hh]⟩⟩

/-- Settles O55: a fault is a fault entry over the unchanged state, and the rest is `pc_exec_of_plain`. -/
theorem otherInstructionsAdvanceByTwo : Obligations.OtherInstructionsAdvanceByTwo := fun _ _ _ hh h =>
  ⟨pc_exec_of_fault hh h, fun ht hi => pc_exec_of_plain hi h ht⟩

/-- Settles O56: the bound is part of the invariant that every step keeps. -/
theorem pcStaysBelowTheWrap : Obligations.PcStaysBelowTheWrap := by
  intro s t hs h
  obtain ⟨-, -, -, -, hpc, -⟩ := coreInv_step hs h
  exact ⟨hpc, fun ht hlast => step_of_fetch_outside ht (by omega)⟩

/-- Settles O5: `step` is `stepWith` of the next free byte, which answers a next state. -/
theorem stepAlwaysAnswersNext : Obligations.StepAlwaysAnswersNext := fun s => by
  rw [step_eq_stepWith]
  exact stepWith_next s s.rand8

/-- Settles O6: the two bytes are the word that `step_eq_exec` decodes. -/
theorem stepRunsDecodedInstruction : Obligations.StepRunsDecodedInstruction := fun _ _ => step_eq_exec

/-- Settles O7: `step_of_fetch_outside` beyond the bound, `step_eq_exec` below it. -/
theorem fetchIsBoundsChecked : Obligations.FetchIsBoundsChecked := fun _ hh =>
  ⟨step_of_fetch_outside hh, fun hf _ => step_eq_exec hh hf⟩

/-- Settles O33: `CXNN` writes one masked byte and counts it; no other instruction writes the counter. -/
theorem eachDrawReadsItsOwnByte : Obligations.EachDrawReadsItsOwnByte := by
  refine ⟨fun x nn s => ⟨_, rfl, ?_, rfl⟩, fun _ _ _ => draws_exec⟩
  calc (randomInto x nn s.rand8 s).reg x
    _ = (s.setReg x (s.rand8 &&& nn)).reg x := rfl
    _ = s.rand8 &&& nn := by rw [reg_setReg, if_pos rfl]

end Sys2Proof.Proofs
end

section
/-!
PROOFS. The family of control transfer (41_control_flow.md): the targets as numbers (R94, R99), a return and a call in
terms of the stack's operations (R110, R112), and the jumps and skips, which move only `PC`.
-/

namespace Sys2Proof.Proofs

open Sys2Proof Sys2Proof.Machine Sys2Proof.Claims

section
variable {i : Instr} {s : State}

/-! ### Targets as numbers -/

theorem addrOperand_toNat (nnn : Addr) : (addrOperand nnn).toNat = nnn.toNat := by
  simp only [addrOperand]
  bv_omega

theorem indexedTarget_toNat (nnn : Addr) (b : Byte) :
    (indexedTarget nnn b).toNat = (nnn.toNat + b.toNat) % 65536 := by
  simp only [indexedTarget]
  bv_omega

/-! ### Instructions that move only `PC` -/

theorem jumpsTo_of_goto {target : Word} {n : Nat} (h : exec i s = .next (s.goto target))
    (hn : target.toNat = n % 65536) : JumpsTo i s n :=
  ⟨_, h, rfl, fun _ => rfl, hn⟩

/-- A skip moves `PC` by 4 where its condition holds, else by 2 (R94). -/
theorem jumpsTo_of_skipIf {c : Bool} (h : exec i s = .next (s.skipIf c)) :
    JumpsTo i s (s.pc.toNat + if c then 4 else 2) := by
  refine jumpsTo_of_goto h ?_
  cases c
  case true => exact BitVec.toNat_add s.pc 4
  case false => exact BitVec.toNat_add s.pc 2

theorem jumpsTo_of_skipIf_beq {a b : Byte} (h : exec i s = .next (s.skipIf (a == b))) :
    JumpsTo i s (s.pc.toNat + if a.toNat = b.toNat then 4 else 2) := by
  simpa only [beq_iff_eq, BitVec.toNat_inj] using jumpsTo_of_skipIf h

theorem jumpsTo_of_skipIf_bne {a b : Byte} (h : exec i s = .next (s.skipIf (a != b))) :
    JumpsTo i s (s.pc.toNat + if a.toNat = b.toNat then 2 else 4) := by
  simpa only [bne_iff_ne, ne_eq, ite_not, BitVec.toNat_inj] using jumpsTo_of_skipIf h

/-! ### The stack -/

theorem getElem_stack_push_self (w : Word) (h : s.sp.val < 16) : (s.push w).stack[s.sp.val] = w := by
  simp [push_stack s w h]

theorem getElem_stack_push_of_ne (w : Word) (h : s.sp.val < 16) {k : Fin 16} (hk : k.val ≠ s.sp.val) :
    (s.push w).stack[k] = s.stack[k] := by
  simp [push_stack s w h, hk.symm]

theorem readByte_push (w : Word) (a : Nat) : (s.push w).readByte a = s.readByte a := by
  simp [State.readByte]

/-- The entry the next pop reads is the pushed one. -/
theorem top_push (w : Word) (h : s.sp.val < 16) : (s.push w).top = w := by
  simp [State.top, push_stack s w h, push_sp s w h]

/-- A pop after a push takes the pointer back and leaves the entry where it was written. -/
theorem pop_push (w : Word) (h : s.sp.val < 16) : (s.push w).pop = { s with stack := (s.push w).stack } := by
  simp [State.pop, State.spDown, State.push, h]

/-- A return on an empty stack (R110). -/
theorem exec_ret_of_empty (h : s.sp.val = 0) : exec .ret s = .next (s.raise .stackUnderflow (encode .ret) 0) :=
  congrArg Host.Outcome.next (if_pos h)

/-- A return that has an entry to pop (R110). -/
theorem exec_ret_of_pos (h : 0 < s.sp.val) : exec .ret s = .next (s.pop.goto (s.top + 2)) :=
  congrArg Host.Outcome.next (if_neg (by omega))

/-- A call on a full stack (R112). -/
theorem exec_call_of_full (nnn : Addr) (h : s.sp.val = 16) :
    exec (.call nnn) s = .next (s.raise .stackOverflow (encode (.call nnn)) 0) :=
  congrArg Host.Outcome.next (if_pos h)

/-- A call that has a free slot (R112). -/
theorem exec_call_of_lt (nnn : Addr) (h : s.sp.val < 16) :
    exec (.call nnn) s = .next ((s.push s.pc).goto (addrOperand nnn)) :=
  congrArg Host.Outcome.next (if_neg (by omega))

/-- A call only writes its stack entry, `SP` and `PC`. -/
theorem push_goto_frame (w target : Word) : (s.push w).goto target =
    { s with stack := (s.push w).stack, sp := (s.push w).sp, pc := target } := by
  unfold State.push
  split <;> rfl

end

/-! ### The obligations -/

/-- Settles O22: the pop undoes the push but for the written entry, and that entry, the call's address, is what the
return goes on after. -/
theorem callThenReturnComesBack : Obligations.CallThenReturnComesBack := by
  intro nnn s h
  have hpos : 0 < ((s.push s.pc).goto (addrOperand nnn)).sp.val := by
    rw [State.goto_sp, push_sp s s.pc h]
    omega
  refine ⟨_, _, exec_call_of_lt nnn h, exec_ret_of_pos hpos, ?_, getElem_stack_push_self s.pc h,
    fun k => getElem_stack_push_of_ne s.pc h⟩
  calc (s.push s.pc).pop.goto ((s.push s.pc).top + 2)
    _ = ({ s with stack := (s.push s.pc).stack } : State).goto (s.pc + 2) := by rw [pop_push _ h, top_push _ h]
    _ = { s with stack := (s.push s.pc).stack, pc := s.pc + 2 } := rfl

/-- Settles O19: the fault entry on an empty stack, else the pop and the jump behind the popped address. -/
theorem returnPopsAndAdvances : Obligations.ReturnPopsAndAdvances :=
  ⟨decodeWord_encode .ret, fun _ => exec_ret_of_empty,
    fun _ h => ⟨_, exec_ret_of_pos h, rfl, rfl, rfl, fun _ => rfl⟩⟩

/-- Settles O20: both go to the target that their operands give. -/
theorem jumpsSetPc : Obligations.JumpsSetPc :=
  ⟨fun nnn => ⟨decodeWord_encode (.jp nnn), decodeWord_encode (.jpV0 nnn)⟩,
    fun nnn _ => jumpsTo_of_goto rfl (by rw [addrOperand_toNat, Nat.mod_eq_of_lt]; omega),
    fun nnn s => jumpsTo_of_goto rfl (indexedTarget_toNat nnn (s.reg 0))⟩

/-- Settles O21: the fault entry on a full stack, else the push and the jump. -/
theorem callPushesItsAddress : Obligations.CallPushesItsAddress := by
  refine ⟨fun nnn => decodeWord_encode (.call nnn), fun nnn _ => exec_call_of_full nnn, fun nnn s h => ?_⟩
  exact ⟨_, exec_call_of_lt nnn h, push_sp s s.pc h, getElem_stack_push_self s.pc h,
    fun k => getElem_stack_push_of_ne s.pc h, addrOperand_toNat nnn, push_goto_frame s.pc (addrOperand nnn),
    readByte_push s.pc⟩

/-- Settles O23: the skips on equality and on difference with the byte. -/
theorem skipsOnImmediate : Obligations.SkipsOnImmediate :=
  ⟨fun x nn => ⟨decodeWord_encode (.seImm x nn), decodeWord_encode (.sneImm x nn)⟩,
    fun _ _ _ => jumpsTo_of_skipIf_beq rfl, fun _ _ _ => jumpsTo_of_skipIf_bne rfl⟩

/-- Settles O24: the skips on equality and on difference of the two registers. -/
theorem skipsOnRegisters : Obligations.SkipsOnRegisters :=
  ⟨fun x y => ⟨decodeWord_encode (.seReg x y), decodeWord_encode (.sneReg x y)⟩,
    fun _ _ _ => jumpsTo_of_skipIf_beq rfl, fun _ _ _ => jumpsTo_of_skipIf_bne rfl⟩

end Sys2Proof.Proofs
end

section
/-!
PROOFS. The collision flag of `DXYN` (R182-R185): a draw is a run of flips of distinct cells, the covered ones.
-/

namespace Sys2Proof.Proofs

open Sys2Proof Sys2Proof.Machine Sys2Proof.Claims

/-- Moving `PC` changes no register. -/
@[simp] theorem reg_advance (s : State) (k : Nibble) : s.advance.reg k = s.reg k := rfl

/-! ### Where sprite bits land -/

section
variable {edge : Config.DrawEdge} {u v x0 y r r' c c' : Nat} {px : Fin 64} {py : Fin 32}

/-- A placed bit lands where the edge policy says (R183, R184). -/
theorem place_eq_some_iff : place edge u v = some (px, py) ↔ Lands edge u v px py := by
  cases edge with
  | wrap => simp [place, Lands, Fin.ext_iff]
  | clip =>
    simp only [place, Lands]
    split
    · simp [Fin.ext_iff]
    · simp only [reduceCtorEq, false_iff]
      omega

/-- No two bits of a sprite, of at most 32 rows and 8 columns, land on one cell. -/
theorem lands_inj (hr : r < 32) (hr' : r' < 32) (hc : c < 8) (hc' : c' < 8)
    (h : Lands edge (x0 + c) (y + r) px py) (h' : Lands edge (x0 + c') (y + r') px py) : r = r' ∧ c = c' := by
  cases edge with
  | wrap => simp only [Lands] at h h'; omega
  | clip => simp only [Lands] at h h'; omega

end

/-! ### The cells a sprite flips

A draw is a run of cell flips. `spriteCells` lists the flipped cells in the order of the draw; no cell is listed twice,
so a flip sees its cell as it was before the draw, and the draw collides exactly when a listed cell was set. -/

/-- The cell that column `c` of a sprite row flips, if its bit is set and placed (R182). -/
def bitCell (edge : Config.DrawEdge) (x0 y : Nat) (row : Byte) (c : Nat) : Option (Fin 2048) :=
  if row.getLsbD (7 - c) then (place edge (x0 + c) y).map fun p => cellIndex p.1 p.2 else none

/-- The cells that a sprite row flips, from the left. -/
def rowCells (edge : Config.DrawEdge) (x0 y : Nat) (row : Byte) : List (Fin 2048) :=
  (List.range 8).flatMap fun c => (bitCell edge x0 y row c).toList

/-- The cells that the rows of a sprite flip, from row `y` on. -/
def spriteCells (edge : Config.DrawEdge) (x0 : Nat) : Nat → List Byte → List (Fin 2048)
  | _, []          => []
  | y, row :: rows => rowCells edge x0 y row ++ spriteCells edge x0 (y + 1) rows

/-- Flip the listed cells in order. -/
def flipCells (ks : List (Fin 2048)) (cv : Canvas) : Canvas := ks.foldl (fun cv k => flipCell k cv) cv

section
variable (edge : Config.DrawEdge) (x0 y : Nat) (row : Byte) (cv : Canvas)

theorem drawBit_eq_flipCells (c : Nat) :
    drawBit edge x0 y row cv c = flipCells (bitCell edge x0 y row c).toList cv := by
  unfold drawBit bitCell
  split
  · cases place edge (x0 + c) y <;> rfl
  · rfl

theorem drawRow_eq_flipCells : drawRow edge x0 y row cv = flipCells (rowCells edge x0 y row) cv := by
  rw [flipCells, rowCells, List.foldl_flatMap, drawRow, funext₂ (drawBit_eq_flipCells edge x0 y row)]
  rfl

theorem drawRows_eq_flipCells (rows : List Byte) :
    drawRows edge x0 y rows cv = flipCells (spriteCells edge x0 y rows) cv := by
  induction rows generalizing y cv with
  | nil => rfl
  | cons row rows ih =>
    rw [drawRows, ih, drawRow_eq_flipCells, spriteCells]
    exact List.foldl_append.symm

end

section
variable {edge : Config.DrawEdge} {x0 y : Nat} {row : Byte} {rows : List Byte} {px : Fin 64} {py : Fin 32}

theorem bitCell_eq_some_iff {c : Nat} : bitCell edge x0 y row c = some (cellIndex px py) ↔
    row.getLsbD (7 - c) = true ∧ Lands edge (x0 + c) y px py := by
  rw [← place_eq_some_iff]
  unfold bitCell
  split
  case isTrue h =>
    simp only [h, true_and, Option.map_eq_some_iff]
    constructor
    · rintro ⟨p, hp, hcell⟩
      rwa [← cellIndex_inj (q := (px, py)).1 hcell]
    · exact fun hp => ⟨_, hp, rfl⟩
  case isFalse h => simp [h]

theorem mem_rowCells_iff : cellIndex px py ∈ rowCells edge x0 y row ↔
    ∃ c < 8, row.getLsbD (7 - c) = true ∧ Lands edge (x0 + c) y px py := by
  simp only [rowCells, List.mem_flatMap, List.mem_range, Option.mem_toList, bitCell_eq_some_iff]

/-- A cell is listed exactly if a set bit of the sprite lands on it. -/
theorem mem_spriteCells_iff : cellIndex px py ∈ spriteCells edge x0 y rows ↔
    ∃ r c, ∃ h : r < rows.length, c < 8 ∧ rows[r].getLsbD (7 - c) = true ∧ Lands edge (x0 + c) (y + r) px py := by
  induction rows generalizing y with
  | nil => simp [spriteCells]
  | cons row rows ih =>
    rw [spriteCells, List.mem_append, mem_rowCells_iff, ih]
    constructor
    · rintro (⟨c, hc, hbit, hland⟩ | ⟨r, c, hr, hc, hbit, hland⟩)
      · exact ⟨0, c, Nat.succ_pos _, hc, hbit, hland⟩
      · exact ⟨r + 1, c, Nat.succ_lt_succ hr, hc, hbit, by rwa [← Nat.add_assoc, Nat.add_right_comm]⟩
    · rintro ⟨_ | r, c, hr, hc, hbit, hland⟩
      · exact .inl ⟨c, hc, hbit, hland⟩
      · exact .inr ⟨r, c, Nat.lt_of_succ_lt_succ hr, hc, hbit, by rwa [Nat.add_assoc, Nat.add_comm 1]⟩

/-- Every cell index is the index of its coordinates. -/
theorem exists_cellIndex (k : Fin 2048) : ∃ px py, cellIndex px py = k :=
  ⟨⟨k.val % 64, by omega⟩, ⟨k.val / 64, by omega⟩, Fin.ext (by simp only [cellIndex]; omega)⟩

theorem nodup_rowCells : (rowCells edge x0 y row).Nodup := by
  refine List.nodup_flatMap.2 ⟨fun c _ => Option.toList_nodup _, List.nodup_range.imp_of_mem ?_⟩
  intro c c' hc hc' hne k hk hk'
  rw [List.mem_range] at hc hc'
  obtain ⟨px, py, rfl⟩ := exists_cellIndex k
  obtain ⟨-, hland⟩ := bitCell_eq_some_iff.1 (Option.mem_toList.1 hk)
  obtain ⟨-, hland'⟩ := bitCell_eq_some_iff.1 (Option.mem_toList.1 hk')
  obtain ⟨-, heq⟩ := lands_inj (r := 0) (r' := 0) (by decide) (by decide) hc hc' hland hland'
  exact hne heq

theorem nodup_spriteCells (h : rows.length ≤ 32) : (spriteCells edge x0 y rows).Nodup := by
  induction rows generalizing y with
  | nil => exact List.nodup_nil
  | cons row rows ih =>
    rw [List.length_cons] at h
    refine List.nodup_append'.2 ⟨nodup_rowCells, ih (by omega), fun k hrow hrows => ?_⟩
    obtain ⟨px, py, rfl⟩ := exists_cellIndex k
    obtain ⟨c, hc, -, hland⟩ := mem_rowCells_iff.1 hrow
    obtain ⟨r, c', hr, hc', -, hland'⟩ := mem_spriteCells_iff.1 hrows
    obtain ⟨heq, -⟩ := lands_inj (r := 0) (r' := r + 1) (by omega) (by omega) hc hc' hland
      (by rwa [← Nat.add_assoc, Nat.add_right_comm])
    omega

end

/-- Flips of distinct cells collide exactly when one of the cells was set before (R185). -/
theorem collided_flipCells {ks : List (Fin 2048)} (hks : ks.Nodup) (cv : Canvas) :
    (flipCells ks cv).collided = true ↔ cv.collided = true ∨ ∃ k ∈ ks, cv.fb[k] = true := by
  induction ks generalizing cv with
  | nil => simp [flipCells]
  | cons k ks ih =>
    obtain ⟨hk, hks⟩ := List.nodup_cons.1 hks
    have hrest : ∀ j ∈ ks, (flipCell k cv).fb[j] = cv.fb[j] := fun j hj => by
      have hne : j ≠ k := fun e => hk (e ▸ hj)
      rw [getElem_flipCell, if_neg hne]
    calc (flipCells ks (flipCell k cv)).collided = true
      _ ↔ (flipCell k cv).collided = true ∨ ∃ j ∈ ks, (flipCell k cv).fb[j] = true := ih hks _
      _ ↔ (cv.collided = true ∨ cv.fb[k] = true) ∨ ∃ j ∈ ks, cv.fb[j] = true := by
        rw [collided_flipCell, Bool.or_eq_true]
        exact or_congr_right (exists_congr fun j => and_congr_right fun hj => by rw [hrest j hj])
      _ ↔ cv.collided = true ∨ ∃ j ∈ k :: ks, cv.fb[j] = true := by simp [or_assoc]

section
variable {s : State} {x y n : Nibble}

/-- The cells of the sprite of `DXYN` are the covered ones (R182). -/
theorem mem_spriteCells_iff_covers {px : Fin 64} {py : Fin 32} :
    cellIndex px py ∈ spriteCells s.params.drawEdge (s.reg x).toNat (s.reg y).toNat (s.loadRun s.dataAddr n.toNat) ↔
      Covers s x y n px py := by
  simp only [mem_spriteCells_iff, State.getElem_loadRun, State.length_loadRun, Covers, exists_prop]

theorem collided_sprite_iff : (s.sprite x y n).collided = true ↔ Collides s x y n := by
  have hrows : (s.loadRun s.dataAddr n.toNat).length ≤ 32 := by
    rw [State.length_loadRun]
    omega
  rw [State.sprite, drawRows_eq_flipCells, collided_flipCells (nodup_spriteCells hrows), Collides]
  constructor
  · rintro (h | ⟨k, hk, hset⟩)
    · cases h
    · obtain ⟨px, py, rfl⟩ := exists_cellIndex k
      exact ⟨px, py, hset, mem_spriteCells_iff_covers.1 hk⟩
  · rintro ⟨px, py, hset, hcov⟩
    exact .inr ⟨_, mem_spriteCells_iff_covers.2 hcov, hset⟩

/-- `DXYN` whose sprite is inside memory draws it, writes the collision flag and advances (R182). -/
theorem exec_drw_of_fits (h : SpriteFits s n) : exec (.drw x y n) s = .next
    ((s.present (s.sprite x y n).fb).setReg vf (flagByte (s.sprite x y n).collided)).advance := by
  have hfits : runFits s.dataAddr n.toNat = true :=
    decide_eq_true (h.imp_left fun hn => by rw [hn]; rfl)
  exact congrArg Host.Outcome.next (if_pos hfits)

/-- `DXYN` whose sprite is inside memory leaves the collision flag in `VF` (R185), whatever `X` and `Y` are. -/
theorem exec_drw_vf (h : SpriteFits s n) : ∃ t, exec (.drw x y n) s = .next t ∧
    (Collides s x y n → t.reg 0xF = 1) ∧ (¬ Collides s x y n → t.reg 0xF = 0) := by
  refine ⟨_, exec_drw_of_fits h, ?_⟩
  rw [reg_advance, reg_setReg, if_pos rfl, ← collided_sprite_iff]
  cases (s.sprite x y n).collided <;> simp [flagByte]

end

end Sys2Proof.Proofs
end

section
/-!
PROOFS. The family of register loads and the ALU (42_register_alu.md): the byte results and flags as numbers (R131,
R136-R140), the two forms of a register write as `WritesOnly` and `WritesFlagged` say them, and the table of `VF` as
operand and destination (R143).
-/

namespace Sys2Proof.Proofs

open Sys2Proof Sys2Proof.Machine Sys2Proof.Claims

/-! ### Results and flags as numbers -/

theorem sumByte_toNat (a b : Byte) : (sumByte a b).toNat = (a.toNat + b.toNat) % 256 := by
  simp [sumByte]

theorem diffByte_toNat (a b : Byte) : (diffByte a b).toNat = (a.toNat + 256 - b.toNat) % 256 := by
  simp [diffByte]

theorem shrByte_toNat (a : Byte) : (shrByte a).toNat = a.toNat / 2 := by
  simp [shrByte, Nat.shiftRight_eq_div_pow]

theorem shlByte_toNat (a : Byte) : (shlByte a).toNat = a.toNat * 2 % 256 := by
  simp [shlByte, Nat.shiftLeft_eq]

theorem flagByte_decide_toNat (p : Prop) [Decidable p] : (flagByte (decide p)).toNat = if p then 1 else 0 := by
  by_cases h : p <;> simp [flagByte, h]

theorem noBorrowFlag_toNat (a b : Byte) : (noBorrowFlag a b).toNat = if b.toNat > a.toNat then 0 else 1 :=
  apply_ite BitVec.toNat _ _ _

theorem lowBitFlag_toNat (a : Byte) : (lowBitFlag a).toNat = a.toNat % 2 := by
  simp [lowBitFlag, Nat.and_one_is_mod]

theorem highBitFlag_toNat (a : Byte) : (highBitFlag a).toNat = a.toNat / 128 := by
  simp [highBitFlag, Nat.shiftRight_eq_div_pow]

/-! ### Register writes -/

section
variable {s : State} {i : Instr} {x : Nibble}

/-- A write to `V[x]` and the advance change nothing else (R94). -/
theorem exec_writesOnly {b : Byte} {val : Nat} (h : exec i s = .next (s.setReg x b).advance) (hb : b.toNat = val) :
    ∃ t, exec i s = .next t ∧ WritesOnly s t x val := by
  subst hb
  refine ⟨_, h, rfl, fun _ => rfl, fun k => ?_⟩
  rw [reg_advance, reg_setReg, apply_ite BitVec.toNat]

/-- A write of flag and result and the advance change nothing else, and the order decides `VF` (R143). -/
theorem exec_writesFlagged {f r : Byte} {flag res : Nat} (h : exec i s = .next (s.writeFlagged x f r).advance)
    (hf : f.toNat = flag) (hr : r.toNat = res) : ∃ t, exec i s = .next t ∧ WritesFlagged s t x flag res := by
  subst hf hr
  refine ⟨_, h, ?_, fun a => ?_, fun k => ?_⟩
  · unfold State.writeFlagged
    split <;> rfl
  · simp [State.readByte]
  · rw [reg_advance, reg_writeFlagged, apply_ite BitVec.toNat, apply_ite BitVec.toNat]

end

section
variable (s : State) (x y : Nibble)

theorem exec_addReg_writesFlagged : ∃ t, exec (.addReg x y) s = .next t ∧ WritesFlagged s t x
    (if (s.reg x).toNat + (s.reg y).toNat > 255 then 1 else 0) (((s.reg x).toNat + (s.reg y).toNat) % 256) :=
  exec_writesFlagged rfl (flagByte_decide_toNat _) (sumByte_toNat _ _)

theorem exec_sub_writesFlagged : ∃ t, exec (.sub x y) s = .next t ∧ WritesFlagged s t x
    (if (s.reg y).toNat > (s.reg x).toNat then 0 else 1) (((s.reg x).toNat + 256 - (s.reg y).toNat) % 256) :=
  exec_writesFlagged rfl (noBorrowFlag_toNat _ _) (diffByte_toNat _ _)

theorem exec_subn_writesFlagged : ∃ t, exec (.subn x y) s = .next t ∧ WritesFlagged s t x
    (if (s.reg x).toNat > (s.reg y).toNat then 0 else 1) (((s.reg y).toNat + 256 - (s.reg x).toNat) % 256) :=
  exec_writesFlagged rfl (noBorrowFlag_toNat _ _) (diffByte_toNat _ _)

theorem exec_shr_writesFlagged : ∃ t, exec (.shr x y) s = .next t ∧
    WritesFlagged s t x ((s.reg x).toNat % 2) ((s.reg x).toNat / 2) :=
  exec_writesFlagged rfl (lowBitFlag_toNat _) (shrByte_toNat _)

theorem exec_shl_writesFlagged : ∃ t, exec (.shl x y) s = .next t ∧
    WritesFlagged s t x ((s.reg x).toNat / 128) ((s.reg x).toNat * 2 % 256) :=
  exec_writesFlagged rfl (highBitFlag_toNat _) (shlByte_toNat _)

end

section
variable {s : State} {i : Instr} {x : Nibble} {flag res : Nat}

/-- With `VF` as the destination, `VF_DEST_ORDER` says which of the two writes is final (R143). -/
theorem vfAfter_of_writesFlagged (h : ∃ t, exec i s = .next t ∧ WritesFlagged s t 0xF flag res) :
    VfAfter i s (byOrder s res flag) := by
  obtain ⟨t, ht, -, -, hreg⟩ := h
  refine ⟨t, ht, ?_⟩
  rw [hreg, byOrder]
  cases s.params.vfDestOrder
  case resultLast => simp
  case flagLast => simp

/-- With another destination, `VF` holds the flag and the destination the result (R143). -/
theorem flag_and_result_of_writesFlagged (hx : x ≠ 0xF) (h : ∃ t, exec i s = .next t ∧ WritesFlagged s t x flag res) :
    ∃ t, exec i s = .next t ∧ (t.reg 0xF).toNat = flag ∧ (t.reg x).toNat = res := by
  obtain ⟨t, ht, -, -, hreg⟩ := h
  refine ⟨t, ht, ?_, ?_⟩
  · rw [hreg, if_pos ⟨rfl, .inl hx⟩]
  · rw [hreg, if_neg fun hvf => hx hvf.1, if_pos rfl]

end

/-! ### The random byte -/

/-- `CXNN` writes the masked byte to `V[x]`, counts the draw and advances; nothing else changes (R141). -/
theorem randomInto_frame (x : Nibble) (nn r : Byte) (s : State) :
    randomInto x nn r s = { s with
      v := (randomInto x nn r s).v, pc := s.pc + 2, draws := (randomInto x nn r s).draws } ∧
    SameBytes s (randomInto x nn r s) ∧
    ∀ k, (randomInto x nn r s).reg k = if k = x then r &&& nn else s.reg k :=
  ⟨rfl, fun _ => rfl, fun k => reg_setReg s x k (r &&& nn)⟩

/-! ### The sum into `I` -/

/-- `FX1E`: the sum with the old `V[x]` goes to `I` and its flag to `VF`, also when `x` is `VF` (R161). -/
theorem exec_addI_vf (s : State) (x : Nibble) : ∃ t, exec (.addI x) s = .next t ∧
    (t.reg 0xF).toNat = (if s.i.toNat + (s.reg x).toNat > 0xFFF then 1 else 0) ∧
    t.i.toNat = (s.i.toNat + (s.reg x).toNat) % 2 ^ s.params.iWidth.bits := by
  refine ⟨_, rfl, ?_, indexOf_toNat _ _⟩
  rw [reg_advance, reg_setReg, if_pos rfl, indexFlag, flagByte_decide_toNat]

/-! ### The obligations -/

/-- Settles O31: each row is its instruction's flag and result, read off by the order when the destination is `VF`. -/
theorem vfAsOperandAndDestination : Obligations.VfAsOperandAndDestination := by
  rintro s vf0 rfl
  refine ⟨fun y _ => vfAfter_of_writesFlagged (exec_addReg_writesFlagged s 0xF y),
    fun x hx => flag_and_result_of_writesFlagged hx (exec_addReg_writesFlagged s x 0xF), ?_,
    fun y _ => vfAfter_of_writesFlagged (exec_sub_writesFlagged s 0xF y),
    fun x hx => flag_and_result_of_writesFlagged hx (exec_sub_writesFlagged s x 0xF), ?_,
    fun y => vfAfter_of_writesFlagged (exec_shr_writesFlagged s 0xF y),
    fun y _ => vfAfter_of_writesFlagged (exec_subn_writesFlagged s 0xF y),
    fun x hx => flag_and_result_of_writesFlagged hx (exec_subn_writesFlagged s x 0xF), ?_,
    fun y => vfAfter_of_writesFlagged (exec_shl_writesFlagged s 0xF y), exec_addI_vf s 0xF, fun x y n _ => exec_drw_vf⟩
  case refine_1 =>
    have hcarry : 2 * (s.reg 0xF).toNat > 255 ↔ (s.reg 0xF).toNat ≥ 0x80 := by omega
    simpa only [← Nat.two_mul, hcarry] using vfAfter_of_writesFlagged (exec_addReg_writesFlagged s 0xF 0xF)
  case refine_2 => simpa using vfAfter_of_writesFlagged (exec_sub_writesFlagged s 0xF 0xF)
  case refine_3 => simpa using vfAfter_of_writesFlagged (exec_subn_writesFlagged s 0xF 0xF)

/-- Settles O25: each writes one register, and a tick takes the timer that `FX07` reads down by at most 1. -/
theorem loadsWriteVx : Obligations.LoadsWriteVx := by
  refine ⟨fun x nn => decodeWord_encode (.ldImm x nn), fun x y => decodeWord_encode (.ldReg x y),
    fun x => decodeWord_encode (.ldVxDt x), fun _ _ _ => exec_writesOnly rfl rfl, fun _ _ _ => exec_writesOnly rfl rfl,
    fun _ _ => exec_writesOnly rfl rfl, fun x s => ⟨_, rfl, ?_⟩⟩
  rw [reg_advance, reg_setReg, if_pos rfl, hostTick_dt]
  split
  · omega
  · rw [countDown_toNat]
    omega

/-- Settles O26: the sum is the only write. -/
theorem addImmediateSetsNoFlag : Obligations.AddImmediateSetsNoFlag :=
  ⟨fun x nn => decodeWord_encode (.addImm x nn), fun _ _ _ => exec_writesOnly rfl (sumByte_toNat _ _)⟩

/-- Settles O27: the bitwise result is the only write. -/
theorem bitwiseOperationsWriteVx : Obligations.BitwiseOperationsWriteVx :=
  ⟨fun x y => ⟨decodeWord_encode (.orReg x y), decodeWord_encode (.andReg x y), decodeWord_encode (.xorReg x y)⟩,
    fun _ _ _ => exec_writesOnly rfl (BitVec.toNat_or _ _), fun _ _ _ => exec_writesOnly rfl (BitVec.toNat_and _ _),
    fun _ _ _ => exec_writesOnly rfl (BitVec.toNat_xor _ _)⟩

/-- Settles O28: carry and sum of the operands before the step. -/
theorem addSetsCarry : Obligations.AddSetsCarry :=
  ⟨fun x y => decodeWord_encode (.addReg x y), fun x y s => exec_addReg_writesFlagged s x y⟩

/-- Settles O29: NOT borrow and difference, the operands exchanged in `8XY7`. -/
theorem subtractionsSetNotBorrow : Obligations.SubtractionsSetNotBorrow :=
  ⟨fun x y => ⟨decodeWord_encode (.sub x y), decodeWord_encode (.subn x y)⟩,
    fun x y s => exec_sub_writesFlagged s x y, fun x y s => exec_subn_writesFlagged s x y⟩

/-- Settles O30: the bit shifted out and the shifted byte, whatever `Y` is. -/
theorem shiftsSetShiftedOutBit : Obligations.ShiftsSetShiftedOutBit :=
  ⟨fun x y => ⟨decodeWord_encode (.shr x y), decodeWord_encode (.shl x y)⟩,
    fun x y s => exec_shr_writesFlagged s x y, fun x y s => exec_shl_writesFlagged s x y⟩

/-- Settles O32: `exec` and `stepWith` both are `randomInto`, with the free byte and with the given one. -/
theorem randomByteIsMasked : Obligations.RandomByteIsMasked := by
  refine ⟨fun x nn => decodeWord_encode (.rnd x nn), fun x nn s => ⟨_, s.rand8, rfl, randomInto_frame x nn s.rand8 s⟩,
    fun x nn s r h => ⟨randomInto x nn r s, ?_, randomInto_frame x nn r s⟩⟩
  rw [stepWith, h]

end Sys2Proof.Proofs
end

section
/-!
PROOFS. The family of the address register and memory transfers (43_index_memory.md): the writes to `I` (R160-R162), a
run of data bytes that fits and one that does not (R52, R166), and what the transfers store and load (R163-R165).
-/

namespace Sys2Proof.Proofs

open Sys2Proof Sys2Proof.Machine Sys2Proof.Claims

section
variable {s t : State}

/-! ### Writes to `I` -/

/-- A number below 4096 fits `I` at both widths, and the write and the advance change nothing else (R23, R94). -/
theorem exec_writesIndexOnly {i : Instr} {a : Nat} (h : exec i s = .next (s.setIndex a).advance) (ha : a < 4096) :
    ∃ t, exec i s = .next t ∧ t.i.toNat = a ∧ t = { s with i := t.i, pc := s.pc + 2 } ∧ SameBytes s t := by
  refine ⟨_, h, (indexOf_toNat s.params a).trans (Nat.mod_eq_of_lt ?_), rfl, fun _ => rfl⟩
  cases s.params.iWidth
  case w16 => exact ha.trans (by decide)
  case w12 => exact ha

/-- A write to `I` changes no register. -/
@[simp] theorem reg_setIndex (s : State) (a : Nat) (k : Nibble) : (s.setIndex a).reg k = s.reg k := rfl

/-- The address of a glyph is below 4096, since `V[X]` is a byte (R162). -/
theorem glyphAddr_lt (v : Byte) : glyphAddr v < 4096 := by
  have := v.isLt
  rw [glyphAddr]
  omega

/-! ### The bounds check of a data run -/

theorem afterRun_of_fits {w : Word} {a n : Nat} (hfit : a + n ≤ 4096) : s.afterRun w a n t = t :=
  if_pos (decide_eq_true (.inr hfit))

/-- A run from `I` that leaves memory ends in the fault record, whatever was to come after it (R52, R222). -/
theorem afterRun_of_outside {w : Word} {n : Nat} (hout : 4096 ≤ s.i.toNat + n) :
    s.afterRun w s.dataAddr (n + 1) t = Faulted s .memoryBounds w (outsideOf s) :=
  if_neg fun hfit => (of_decide_eq_true hfit).elim (Nat.succ_ne_zero n) (Nat.not_le.2 (Nat.lt_succ_of_le hout))

/-- `FX33` whose run fits stores the digits and moves on (R163). -/
theorem exec_ldB_of_fits {x : Nibble} (hfit : s.i.toNat + 2 < 4096) :
    exec (.ldB x) s = .next (s.storeRun s.dataAddr (bcdDigits (s.reg x))).advance :=
  congrArg Host.Outcome.next (afterRun_of_fits hfit)

/-- `FX65` whose run fits loads the registers and moves on (R165). -/
theorem exec_ldMemLoad_of_fits {x : Nibble} (hfit : s.i.toNat + x.toNat < 4096) :
    exec (.ldMemLoad x) s = .next (s.loadRegs (s.loadRun s.dataAddr (x.toNat + 1))).advance :=
  congrArg Host.Outcome.next (afterRun_of_fits hfit)

/-! ### The bytes stored and loaded -/

/-- A stored run and the advance change no byte outside the run and no other piece of state (R94, R166). -/
theorem advance_storeRun_frame (s : State) (a : Nat) (bs : List Byte) :
    (s.storeRun a bs).advance = { s with mem := (s.storeRun a bs).advance.mem, pc := s.pc + 2 } ∧
    SameBytesOutside s (s.storeRun a bs).advance a bs.length :=
  ⟨rfl, fun _ hb => State.readByte_storeRun_other s a bs hb⟩

theorem bcdDigits_toNat (v : Byte) :
    (bcdDigits v).map BitVec.toNat = [v.toNat / 100, v.toNat / 10 % 10, v.toNat % 10] := by
  have := v.isLt
  simp only [bcdDigits, List.map_cons, List.map_nil, BitVec.toNat_ofNat, List.cons.injEq, and_true]
  omega

/-- The `k`-th byte `FX33` stores reads back as the `k`-th digit, in a canonical memory (R55, R163). -/
theorem readByte_storeRun_bcdDigits (hm : Memory.wf s.params s.mem) (hfit : s.i.toNat + 2 < 4096) (v : Byte)
    (k : Nat) (hk : k < 3) :
    ((s.storeRun s.dataAddr (bcdDigits v)).readByte (s.dataAddr + k)).toNat =
      [v.toNat / 100, v.toNat / 10 % 10, v.toNat % 10][k] := by
  have hlen : k < (bcdDigits v).length := hk
  rw [State.readByte_storeRun_inside s hm s.dataAddr (bcdDigits v) hfit k hlen]
  simp only [← bcdDigits_toNat, List.getElem_map]

/-- The registers up to `V[x]` hold the loaded run, those above keep their values (R165). -/
theorem reg_loadRegs_loadRun (s : State) (a : Nat) (x k : Nibble) :
    (s.loadRegs (s.loadRun a (x.toNat + 1))).reg k =
      if k.toNat ≤ x.toNat then s.readByte (a + k.toNat) else s.reg k := by
  rw [reg_eq_getElem, State.loadRegs_v, getElem_writeRegs]
  simp only [State.length_loadRun, State.getElem_loadRun, Nat.zero_le, true_and, Nat.sub_zero, Nat.lt_succ_iff,
    dite_eq_ite, reg_eq_getElem]

end

/-! ### The obligations -/

/-- Settles O34: both numbers are below 4096, so neither width of `I` cuts them. -/
theorem indexLoads : Obligations.IndexLoads :=
  ⟨fun nnn => decodeWord_encode (.ldI nnn), fun x => decodeWord_encode (.ldF x),
    fun nnn _ => exec_writesIndexOnly rfl nnn.isLt, fun x s => exec_writesIndexOnly rfl (glyphAddr_lt (s.reg x))⟩

/-- Settles O35: the sum is written to `I` and its flag to `VF`, each from the operands before the step. -/
theorem addToIndexSetsFlag : Obligations.AddToIndexSetsFlag := by
  refine ⟨fun x => decodeWord_encode (.addI x),
    fun x s => ⟨_, rfl, indexOf_toNat _ _, fun k => ?_, rfl, fun _ => rfl⟩⟩
  rw [reg_advance, reg_setReg, apply_ite BitVec.toNat, indexFlag, flagByte_decide_toNat, reg_setIndex]

/-- Settles O36: the three digits are the stored run, and each is read back from its place in the run. -/
theorem bcdStoresThreeDigits : Obligations.BcdStoresThreeDigits := by
  refine ⟨fun x => decodeWord_encode (.ldB x), fun x s hout => congrArg Host.Outcome.next (afterRun_of_outside hout),
    fun x s hfit => ?_, fun _ => rfl⟩
  obtain ⟨hframe, hbytes⟩ := advance_storeRun_frame s s.dataAddr (bcdDigits (s.reg x))
  refine ⟨_, exec_ldB_of_fits hfit, hframe, hbytes, fun hm => ?_⟩
  have hdigit := readByte_storeRun_bcdDigits hm hfit (s.reg x)
  exact ⟨hdigit 0 (by decide), hdigit 1 (by decide), hdigit 2 (by decide)⟩

/-- Settles O37: `V[0]` to `V[X]` are the stored run, and each is read back from its place in the run. -/
theorem registersAreStored : Obligations.RegistersAreStored := by
  refine ⟨fun x => decodeWord_encode (.ldMemStore x),
    fun x s hout => congrArg Host.Outcome.next (afterRun_of_outside hout), fun x s hfit => ?_, fun _ => rfl⟩
  obtain ⟨hframe, hbytes⟩ := advance_storeRun_frame s s.dataAddr (s.regsUpTo x)
  rw [length_regsUpTo] at hbytes
  exact ⟨_, exec_ldMemStore_of_fits hfit, hframe, hbytes, fun hm _ hk => readByte_storeRun_regsUpTo hm hfit hk⟩

/-- Settles O38: the loaded run is written to `V[0]` to `V[X]`, and nothing else but `PC` moves. -/
theorem registersAreLoaded : Obligations.RegistersAreLoaded :=
  ⟨fun x => decodeWord_encode (.ldMemLoad x),
    fun _ _ hout => congrArg Host.Outcome.next (afterRun_of_outside hout),
    fun x s hfit => ⟨_, exec_ldMemLoad_of_fits hfit, rfl, fun _ => rfl,
      fun k => (reg_advance _ k).trans (reg_loadRegs_loadRun s s.dataAddr x k)⟩⟩

end Sys2Proof.Proofs
end

section
/-!
PROOFS. The family of the framebuffer (44_display.md): what a draw leaves in each cell (R182-R184), that a second draw
of the same sprite undoes it, that the edge policies agree inside the raster, and the clear (R181).
-/

namespace Sys2Proof.Proofs

open Sys2Proof Sys2Proof.Machine Sys2Proof.Claims

/-! ### The cells after a draw -/

/-- Flips of distinct cells invert the listed cells and no other (R182). -/
theorem getElem_flipCells {ks : List (Fin 2048)} (hks : ks.Nodup) (cv : Canvas) (j : Fin 2048) :
    (flipCells ks cv).fb[j] = if j ∈ ks then !cv.fb[j] else cv.fb[j] := by
  induction ks generalizing cv with
  | nil => rfl
  | cons k ks ih =>
    obtain ⟨hk, hks⟩ := List.nodup_cons.1 hks
    have hstep : (flipCells (k :: ks) cv).fb[j] = if j ∈ ks then !(flipCell k cv).fb[j] else (flipCell k cv).fb[j] :=
      ih hks (flipCell k cv)
    rw [hstep, getElem_flipCell]
    by_cases hj : j = k
    · subst hj
      simp [hk]
    · simp [hj]

/-- A framebuffer is determined by its cells (R180). -/
theorem fb_ext {fb fb' : Vector Bool 2048} (h : ∀ px py, fb[cellIndex px py] = fb'[cellIndex px py]) : fb = fb' := by
  have hat : ∀ k : Fin 2048, fb[k] = fb'[k] := fun k => by
    obtain ⟨px, py, rfl⟩ := exists_cellIndex k
    exact h px py
  exact Vector.ext fun k hk => hat ⟨k, hk⟩

section
variable {s t : State} {x y n : Nibble}

/-- The sprite of `DXYN` inverts exactly the covered cells (R182). -/
theorem cell_sprite_iff (px : Fin 64) (py : Fin 32) :
    (s.sprite x y n).fb[cellIndex px py] = true ↔ ¬ (s.cell px py = true ↔ Covers s x y n px py) := by
  have hrows : (s.loadRun s.dataAddr n.toNat).length ≤ 32 := by
    rw [State.length_loadRun]
    omega
  rw [State.sprite, drawRows_eq_flipCells, getElem_flipCells (nodup_spriteCells hrows)]
  by_cases hcov : Covers s x y n px py
  · simp [mem_spriteCells_iff_covers, hcov, State.cell]
  · simp [mem_spriteCells_iff_covers, hcov, State.cell]

/-- `DXYN` whose sprite leaves memory ends in the fault record (R182, R222). -/
theorem exec_drw_of_outside (hn : n ≠ 0) (hout : 4096 ≤ s.i.toNat + n.toNat - 1) :
    exec (.drw x y n) s = .next (Faulted s .memoryBounds (encode (.drw x y n)) (outsideOf s)) := by
  have hpos : n.toNat ≠ 0 := fun h => hn (BitVec.eq_of_toNat_eq h)
  obtain ⟨m, hm⟩ := Nat.exists_eq_succ_of_ne_zero hpos
  rw [exec, execDrw, hm, Nat.succ_eq_add_one, afterRun_of_outside (by omega)]

/-! ### Draws that cover the same cells -/

/-- Which cells a sprite covers depends on its origin, its bytes and the edge policy only (R182). -/
theorem covers_congr (hx : t.reg x = s.reg x) (hy : t.reg y = s.reg y) (hi : t.i = s.i)
    (hp : t.params = s.params) (hbytes : SameBytes s t) (px : Fin 64) (py : Fin 32) :
    Covers t x y n px py ↔ Covers s x y n px py := by
  simp only [Covers, hx, hy, hi, hp, hbytes _]

/-- The sprites of two states are drawn alike when they cover the same cells of the same framebuffer. -/
theorem sprite_eq_of_covers (hfb : t.fb = s.fb)
    (hcov : ∀ px py, Covers t x y n px py ↔ Covers s x y n px py) : t.sprite x y n = s.sprite x y n := by
  have hcell : ∀ px py, t.cell px py = s.cell px py := fun px py => by rw [State.cell, State.cell, hfb]
  have hcells : (t.sprite x y n).fb = (s.sprite x y n).fb := fb_ext fun px py => by
    rw [Bool.eq_iff_iff, cell_sprite_iff, cell_sprite_iff, hcell, hcov]
  have hcollided : (t.sprite x y n).collided = (s.sprite x y n).collided := by
    rw [Bool.eq_iff_iff, collided_sprite_iff, collided_sprite_iff]
    simp only [Collides, hcell, hcov]
  calc t.sprite x y n
    _ = ⟨(t.sprite x y n).fb, (t.sprite x y n).collided⟩ := rfl
    _ = s.sprite x y n := by rw [hcells, hcollided]

end

/-! ### The edge policies inside the raster -/

/-- A bit inside the raster lands alike under both edge policies (R183, R184). -/
theorem lands_wrap_iff_clip {u v : Nat} (hu : u ≤ 63) (hv : v ≤ 31) (px : Fin 64) (py : Fin 32) :
    Lands .wrap u v px py ↔ Lands .clip u v px py := by
  simp only [Lands]
  omega

/-- The state under another edge policy. -/
def withEdge (edge : Config.DrawEdge) (s : State) : State := { s with params := { s.params with drawEdge := edge } }

/-- What memory reads depends on the parameters through the font only (R56). -/
theorem read_congr_font {p q : Config.Params} (h : p.font = q.font) (m : Memory) (a : Nat) :
    Memory.read p m a = Memory.read q m a := by
  induction m with
  | nil => simp only [Memory.read, Memory.unlisted, h]
  | cons c m ih => simp only [Memory.read, ih]

section
variable {s : State} {x y n : Nibble}

@[simp] theorem readByte_withEdge (edge : Config.DrawEdge) (a : Nat) : (withEdge edge s).readByte a = s.readByte a :=
  read_congr_font (p := (withEdge edge s).params) (q := s.params) rfl s.mem a

/-- A sprite inside the raster covers the same cells under both edge policies. -/
theorem covers_wrap_iff_clip (hx : (s.reg x).toNat + 7 ≤ 63) (hy : (s.reg y).toNat + n.toNat ≤ 32)
    (px : Fin 64) (py : Fin 32) :
    Covers (withEdge .wrap s) x y n px py ↔ Covers (withEdge .clip s) x y n px py := by
  simp only [Covers, readByte_withEdge]
  refine exists_congr fun r => exists_congr fun c =>
    and_congr_right fun hr => and_congr_right fun hc => and_congr_right fun _ => ?_
  exact lands_wrap_iff_clip (u := (s.reg x).toNat + c) (v := (s.reg y).toNat + r) (by omega) (by omega) px py

end

/-! ### The step that draws -/

/-- A core that comes to execute an instruction is not halted (R91). -/
theorem halted_of_fetchDecode {s : State} {i : Instr} (h : s.fetchDecode = .ok i) : s.halted = false := by
  cases hh : s.halted
  case false => rfl
  case true =>
    rw [fetchDecode_of_halted hh] at h
    cases h

/-! ### The obligations -/

/-- Settles O41: the fault entry outside memory, else the flips of the covered cells and the collision flag. -/
theorem drawFlipsCoveredCells : Obligations.DrawFlipsCoveredCells := by
  refine ⟨fun x y n => decodeWord_encode (.drw x y n), fun _ _ _ _ => exec_drw_of_outside, fun x y n s hfit => ?_⟩
  obtain ⟨t, ht, hset, hclear⟩ := exec_drw_vf (x := x) (y := y) hfit
  obtain rfl := Host.Outcome.next.inj ((exec_drw_of_fits hfit).symm.trans ht)
  refine ⟨_, ht, cell_sprite_iff, hset, hclear, fun k hk => ?_, rfl, fun _ => rfl⟩
  rw [reg_advance, reg_setReg, if_neg hk]
  rfl

/-- Settles O42: the second draw covers the same cells, since no origin register is `VF`; inverting twice restores a
cell, and a cell that the first draw lit collides. -/
theorem drawingTwiceRestores : Obligations.DrawingTwiceRestores := by
  obtain ⟨-, -, hdraw⟩ := drawFlipsCoveredCells
  intro x y n s t u hx hy hfit ht hu
  obtain ⟨t, ht', hcell, -, hclear, hreg, hframe, hbytes⟩ := hdraw x y n s hfit
  obtain rfl := Host.Outcome.next.inj (ht'.symm.trans ht)
  have hindex : t.i = s.i := by rw [hframe]
  have hparams : t.params = s.params := by rw [hframe]
  have hcov := covers_congr (n := n) (hreg x hx) (hreg y hy) hindex hparams hbytes
  obtain ⟨u, hu', hcell', hset, -⟩ := hdraw x y n t (by rwa [SpriteFits, hindex])
  obtain rfl := Host.Outcome.next.inj (hu'.symm.trans hu)
  have hback : ∀ px py, u.cell px py = s.cell px py := fun px py => by
    rw [Bool.eq_iff_iff, hcell', hcell, hcov]
    tauto
  refine ⟨fb_ext hback, fun ⟨px, py, hlit⟩ hnone => ⟨hclear hnone, hset ⟨px, py, ?_, (hcov px py).2 hlit⟩⟩⟩
  have hoff : ¬ s.cell px py = true := fun hon => hnone ⟨px, py, hon, hlit⟩
  exact (hcell px py).2 fun hsame => hoff (hsame.2 hlit)

/-- Settles O43: the two draws cover the same cells, so their canvases are equal, and `VF` with them. -/
theorem edgePolicyIsMootInside : Obligations.EdgePolicyIsMootInside := by
  intro x y n s hx hy hfit
  have hcanvas : (withEdge .wrap s).sprite x y n = (withEdge .clip s).sprite x y n :=
    sprite_eq_of_covers rfl (covers_wrap_iff_clip hx hy)
  refine ⟨_, _, exec_drw_of_fits (s := withEdge .wrap s) hfit, exec_drw_of_fits (s := withEdge .clip s) hfit, ?_, ?_⟩
  · exact congrArg Canvas.fb hcanvas
  · simp only [State.advance_v, State.setReg_v, hcanvas]
    rfl

/-- Settles O40: every cell of the new framebuffer is 0; the step executes the clear on a running core. -/
theorem clearScreen : Obligations.ClearScreen := by
  refine ⟨decodeWord_encode .cls, fun s => ⟨_, rfl, fun px py => ?_, rfl, fun _ => rfl⟩, fun s hfetch => ?_⟩
  · simp [State.cell]
  · have hstep : step s = exec .cls s := by rw [step, hfetch]
    refine ⟨_, hstep, rfl, ?_⟩
    simp [drewOf, hfetch, isDrawing, halted_of_fetchDecode hfetch]

end Sys2Proof.Proofs
end

section
/-!
PROOFS. The family of input and timers (45_input_timers.md): the key skips (R200, R201), the three cases of a key wait
(R202), the timer loads (R204, R205), and the beeps of a sound timer that counts down (R205, R230, R233).
-/

namespace Sys2Proof.Proofs

open Sys2Proof Sys2Proof.Machine Sys2Proof.Claims

section
variable {i : Instr} {s : State} {x : Nibble} {k : Fin 16}

/-! ### The beeps of the sound timer -/

/-- A running core beeps on the tick that takes `ST` from 2 to 1 (R230, R233). -/
theorem hostTick_beep_iff (hh : s.halted = false) : (hostTick s).2 = true ↔ s.st.toNat = 2 := by
  simp [hostTick, hh, BitVec.toNat_eq]

theorem hostTick_st_toNat (hh : s.halted = false) : (hostTick s).1.st.toNat = s.st.toNat - 1 := by
  simp [hostTick_st, hh, countDown_toNat]

/-- The one beep of `n` ticks is the tick number `ST - 1`, if there is such a tick (R205). -/
theorem beeps_eq (n : Nat) (hh : s.halted = false) :
    beeps n s = if 2 ≤ s.st.toNat ∧ s.st.toNat - 1 ≤ n then 1 else 0 := by
  induction n generalizing s with
  | zero =>
    rw [beeps, if_neg]
    omega
  | succ n ih =>
    have hrest := ih (s := (hostTick s).1) (by rw [hostTick_halted, hh])
    rw [hostTick_st_toNat hh] at hrest
    rw [beeps, hrest]
    simp only [hostTick_beep_iff hh]
    by_cases hbeep : s.st.toNat = 2
    · simp [hbeep]
    · have hcond : (2 ≤ s.st.toNat - 1 ∧ s.st.toNat - 1 - 1 ≤ n) ↔ (2 ≤ s.st.toNat ∧ s.st.toNat - 1 ≤ n + 1) := by
        omega
      simp only [hbeep, hcond, if_false, Nat.zero_add]

/-! ### The key skips -/

/-- A key skip whose operand names no key ends in the fault record (R200, R222). -/
theorem keySkip_none (w : Word) (level : Bool) : s.keySkip w none level = Faulted s .keyIndex w 0 := rfl

theorem keyOfByte_of_toNat_eq {b : Byte} (h : b.toNat = k.val) : keyOfByte b = some k := by
  rw [keyOfByte_some (h ▸ k.isLt)]
  exact congrArg some (Fin.ext h)

theorem sknpKey_of_dereference (hmode : s.params.exa1Mode = .dereference) : s.sknpKey x = keyOfByte (s.reg x) := by
  rw [State.sknpKey, hmode]

theorem sknpKey_of_rawNibble (hmode : s.params.exa1Mode = .rawNibble) (hk : x.toNat = k.val) :
    s.sknpKey x = some k := by
  rw [State.sknpKey, hmode]
  exact congrArg some (Fin.ext hk)

theorem exec_skp_of_key (h : s.skpKey x = some k) : exec (.skp x) s = .next (s.skipIf (s.key[k] == true)) := by
  rw [exec, execSkp, h, State.keySkip]

theorem exec_sknp_of_key (h : s.sknpKey x = some k) : exec (.sknp x) s = .next (s.skipIf (s.key[k] == false)) := by
  rw [exec, execSknp, h, State.keySkip]

theorem exec_skp_of_no_key (h : s.skpKey x = none) :
    exec (.skp x) s = .next (Faulted s .keyIndex (encode (.skp x)) 0) := by
  rw [exec, execSkp, h, keySkip_none]

theorem exec_sknp_of_no_key (h : s.sknpKey x = none) :
    exec (.sknp x) s = .next (Faulted s .keyIndex (encode (.sknp x)) 0) := by
  rw [exec, execSknp, h, keySkip_none]

/-- `EX9E` skips over the next word if its key is held (R200). -/
theorem jumpsTo_skp (h : s.skpKey x = some k) : JumpsTo (.skp x) s (s.pc.toNat + if s.key[k] then 4 else 2) := by
  simpa only [beq_true] using jumpsTo_of_skipIf (exec_skp_of_key h)

/-- `EXA1` skips over the next word unless its key is held, wherever the key comes from (R201). -/
theorem jumpsTo_sknp (h : s.sknpKey x = some k) : JumpsTo (.sknp x) s (s.pc.toNat + if s.key[k] then 2 else 4) := by
  simpa only [beq_false, Bool.not_eq_true', ← Bool.not_eq_true, ite_not] using jumpsTo_of_skipIf (exec_sknp_of_key h)

/-! ### The key wait -/

/-- The search finds nothing if no key is newly held (R202). -/
theorem newlyHeld_eq_none {keys snap : Vector Bool 16} (h : ∀ j : Fin 16, ¬ (keys[j] = true ∧ snap[j] = false)) :
    newlyHeld keys snap = none := by
  cases hfind : newlyHeld keys snap with
  | none => rfl
  | some j => exact absurd (newlyHeld_some hfind).1 (h j)

/-- The search finds the lowest newly held key (R202, D10). -/
theorem newlyHeld_eq_some {keys snap : Vector Bool 16} (hk : keys[k] = true ∧ snap[k] = false)
    (hlow : ∀ j < k, ¬ (keys[j] = true ∧ snap[j] = false)) : newlyHeld keys snap = some k := by
  cases hfind : newlyHeld keys snap with
  | none => exact absurd hk (newlyHeld_none hfind k)
  | some j =>
    obtain ⟨hj, hjlow⟩ := newlyHeld_some hfind
    have hjk : j ≤ k := not_lt.1 fun hlt => hjlow k hlt hk
    have hkj : k ≤ j := not_lt.1 fun hlt => hlow j hlt hj
    rw [le_antisymm hjk hkj]

/-- The first execution enters the wait (R202). -/
theorem exec_ldVxK_of_not_waiting (hw : s.waitActive = false) : exec (.ldVxK x) s = .next (s.setWait true s.key) := by
  simp [exec, execLdVxK, hw]

/-- A wait goes on while no key is newly held (R202). -/
theorem exec_ldVxK_of_none (hw : s.waitActive = true) (hnone : newlyHeld s.key s.keySnap = none) :
    exec (.ldVxK x) s = .next (s.setWait true s.key) := by
  simp [exec, execLdVxK, hw, hnone]

/-- A newly held key completes the wait (R202). -/
theorem exec_ldVxK_of_some (hw : s.waitActive = true) (hsome : newlyHeld s.key s.keySnap = some k) :
    exec (.ldVxK x) s = .next ((s.setReg x (BitVec.ofNat 8 k.val)).setWait false s.key).advance := by
  simp [exec, execLdVxK, hw, hsome]

/-- In a wait, only the snapshot changes if the wait goes on (R96). -/
theorem setWait_of_waiting (hw : s.waitActive = true) (snap : Vector Bool 16) :
    s.setWait true snap = { s with keySnap := snap } := by
  rw [State.setWait, ← hw]

/-- The registers are those before the wait was written. -/
@[simp] theorem reg_setWait (s : State) (active : Bool) (snap : Vector Bool 16) (r : Nibble) :
    (s.setWait active snap).reg r = s.reg r := rfl

/-- A key number fits a byte. -/
theorem ofNat_key_toNat (k : Fin 16) : (BitVec.ofNat 8 k.val).toNat = k.val := by
  rw [BitVec.toNat_ofNat, Nat.mod_eq_of_lt]
  omega

/-! ### The timer loads -/

/-- `FX18` writes `ST`, advances and changes nothing else (R205). -/
theorem exec_ldStVx (s : State) (x : Nibble) :
    exec (.ldStVx x) s = .next { s with st := s.reg x, pc := s.pc + 2 } := rfl

end

/-! ### The obligations -/

/-- Settles O51: the beeps by `beeps_eq`, also from the state that `FX18` leaves, which is not halted. -/
theorem soundTimerBeepsOnce : Obligations.SoundTimerBeepsOnce :=
  ⟨fun x => decodeWord_encode (.ldStVx x), fun n _ => beeps_eq n,
    fun x n s hh => ⟨_, exec_ldStVx s x, rfl, rfl, fun _ => rfl, beeps_eq n hh⟩⟩

/-- Settles O44: a code above 15 names no key; the key of a code up to 15 decides the skip. -/
theorem skipIfKeyHeld : Obligations.SkipIfKeyHeld :=
  ⟨fun x => decodeWord_encode (.skp x), fun _ _ hout => exec_skp_of_no_key (keyOfByte_none (Nat.not_lt.2 hout)),
    fun _ _ _ hk => jumpsTo_skp (keyOfByte_of_toNat_eq hk)⟩

/-- Settles O45: `EXA1_MODE` decides where the key comes from, and only a dereferenced code can be above 15. -/
theorem skipIfKeyNotHeld : Obligations.SkipIfKeyNotHeld := by
  refine ⟨fun x => decodeWord_encode (.sknp x), fun x s hmode hout => exec_sknp_of_no_key ?_,
    fun x s k hmode hk => jumpsTo_sknp ?_, fun x s k hmode hk => jumpsTo_sknp (sknpKey_of_rawNibble hmode hk)⟩
  · exact (sknpKey_of_dereference hmode).trans (keyOfByte_none (Nat.not_lt.2 hout))
  · exact (sknpKey_of_dereference hmode).trans (keyOfByte_of_toNat_eq hk)

/-- Settles O46: the search for a newly held key decides between going on and completing with what it finds. -/
theorem keyWaitCompletesOnNewlyHeldKey : Obligations.KeyWaitCompletesOnNewlyHeldKey := by
  refine ⟨fun x => decodeWord_encode (.ldVxK x), fun x s => exec_ldVxK_of_not_waiting, fun x s hw hnone => ?_,
    fun x s k hw hheld hsnap hlow => ?_⟩
  · rw [exec_ldVxK_of_none hw (newlyHeld_eq_none hnone), setWait_of_waiting hw]
  · refine ⟨_, exec_ldVxK_of_some hw (newlyHeld_eq_some ⟨hheld, hsnap⟩ hlow), fun r => ?_, rfl, fun _ => rfl⟩
    rw [reg_advance, reg_setWait, reg_setReg, apply_ite BitVec.toNat, ofNat_key_toNat]

/-- Settles O48: each is one write to its timer and the advance. -/
theorem timersAreSet : Obligations.TimersAreSet :=
  ⟨fun x => ⟨decodeWord_encode (.ldDtVx x), decodeWord_encode (.ldStVx x)⟩,
    fun _ _ => ⟨_, rfl, rfl, fun _ => rfl⟩, fun x s => ⟨_, exec_ldStVx s x, rfl, fun _ => rfl⟩⟩

end Sys2Proof.Proofs
end

section
/-!
PROOFS. The family of faults and the host interface (60_exceptions.md): what the fault entry records (R222), which
instructions fault (R220), what a step returns (R246), the timers (R230, R231), the ports (R242-R244), and the
invariant of a session (R241, R267).
-/

namespace Sys2Proof.Proofs

open Sys2Proof Sys2Proof.Machine Sys2Proof.Safety Sys2Proof.Claims

section
variable {i : Instr} {s t : State} {x y : Session} {r : Reply}

/-! ### What a step can do -/

/-- A step that executes nothing ends in a halted state (R91-R93). -/
theorem halted_of_fetchDecode_error (h : s.fetchDecode = .error t) : t.halted = true := by
  obtain ⟨hh, heq⟩ | ⟨-, -, heq⟩ | ⟨-, -, e, -, heq⟩ | ⟨-, -, i, -, heq⟩ := fetchDecode_cases s
  all_goals cases heq.symm.trans h
  · exact hh
  · rfl
  · rfl

/-- The host's byte goes to `V[X]` where `CXNN` is executed; any other step is `step` (R90, R97). -/
theorem stepWith_cases {b : Byte} (h : stepWith b s = .next t) :
    step s = .next t ∨
      ∃ x nn, step s = .next (randomInto x nn s.rand8 s) ∧ t = randomInto x nn b s := by
  by_cases hrnd : ∃ x nn, s.fetchDecode = .ok (.rnd x nn)
  · obtain ⟨x, nn, hfetch⟩ := hrnd
    rw [stepWith, hfetch] at h
    obtain rfl := Host.Outcome.next.inj h
    exact .inr ⟨x, nn, by rw [step, hfetch]; rfl, rfl⟩
  · left
    rwa [← stepWith_eq_step b fun x nn hfetch => hrnd ⟨x, nn, hfetch⟩]

/-- A step that does not end halted has executed an instruction. -/
theorem exists_fetchDecode_of_running {b : Byte} (h : stepWith b s = .next t) (ht : t.halted = false) :
    ∃ i, s.fetchDecode = .ok i := by
  cases hfetch : s.fetchDecode with
  | ok i => exact ⟨i, rfl⟩
  | error u =>
    rw [stepWith, hfetch] at h
    obtain rfl := Host.Outcome.next.inj h
    rw [halted_of_fetchDecode_error hfetch] at ht
    cases ht

/-- No step clears `Dirty` (R29). -/
theorem dirty_step (hs : s.dirty = true) (h : step s = .next t) : t.dirty = true := by
  unfold step at h
  obtain ⟨-, heq⟩ | ⟨-, -, heq⟩ | ⟨-, -, e, -, heq⟩ | ⟨-, -, i, -, heq⟩ := fetchDecode_cases s
  all_goals rw [heq] at h
  case inr.inr.inr => exact (exec_writesWithin h).dirty hs
  all_goals
    cases h
    exact hs

theorem dirty_stepWith {b : Byte} (hs : s.dirty = true) (h : stepWith b s = .next t) : t.dirty = true := by
  obtain hstep | ⟨x, nn, -, rfl⟩ := stepWith_cases h
  · exact dirty_step hs hstep
  · exact hs

/-! ### The fault entry -/

/-- The state `t` is the fault entry from `s`; the recorded word is the fetched one, or 0 when the fetch faulted
(R222). -/
def EntersFault (s t : State) : Prop :=
  ∃ c w a, t = s.raise c w a ∧ RaisesSoundly c a ∧
    (4096 ≤ s.pc.toNat + 1 → w = 0) ∧ (s.pc.toNat + 1 < 4096 → w = s.fetchWord)

theorem entersFault_of_fetched {c : FaultCause} {a : Nat} (hf : s.pc.toNat + 1 < 4096) (hc : RaisesSoundly c a) :
    EntersFault s (s.raise c s.fetchWord a) :=
  ⟨c, _, a, rfl, hc, fun hout => absurd hf (Nat.not_lt.2 hout), fun _ => rfl⟩

/-- A step of a running core enters a fault or leaves the record alone. -/
theorem step_entersFault_or_keepsRecord (hh : s.halted = false) (h : step s = .next t) :
    EntersFault s t ∨ KeepsRecord s t := by
  unfold step at h
  obtain ⟨hhalted, -⟩ | ⟨-, hf, heq⟩ | ⟨-, hf, e, -, heq⟩ | ⟨-, hf, i, hd, heq⟩ := fetchDecode_cases s
  · rw [hh] at hhalted
    cases hhalted
  all_goals rw [heq] at h
  · cases h
    exact .inl ⟨_, _, _, rfl, raisesSoundly_bounds s.pc, fun _ => rfl, fun hin => absurd hin hf⟩
  · cases h
    exact .inl (entersFault_of_fetched hf (raisesSoundly_zero nofun nofun))
  · obtain ⟨c, a, rfl, hc⟩ | hkeep := exec_raisesOrKeepsRecord h
    · rw [encode_of_decodeWord hd]
      exact .inl (entersFault_of_fetched hf hc)
    · exact .inr hkeep

/-! ### Which instructions fault -/

/-- A checked run faults only where it leaves memory, with `MEMORY_BOUNDS` (R52). -/
theorem afterRun_fault {w : Word} {a n : Nat} (hh : s.halted = false) (hf : (s.afterRun w a n t).halted = true)
    (ht : t.halted = s.halted) : (s.afterRun w a n t).faultCause = .memoryBounds ∧ 4096 < a + n ∧ n ≠ 0 := by
  obtain ⟨-, heq⟩ | ⟨⟨hn, hout⟩, heq⟩ := afterRun_cases s w a n t
  · rw [heq, ht, hh] at hf
    cases hf
  · exact ⟨by rw [heq, State.raise_faultCause], hout, hn⟩

/-- A key skip faults only where its operand names no key, with `KEY_INDEX` (R200, R201). -/
theorem keySkip_fault {w : Word} {k : Option (Fin 16)} {level : Bool} (hh : s.halted = false)
    (hf : (s.keySkip w k level).halted = true) : (s.keySkip w k level).faultCause = .keyIndex ∧ k = none := by
  obtain ⟨hk, heq⟩ | ⟨j, -, heq⟩ := keySkip_cases s w k level
  · exact ⟨by rw [heq, State.raise_faultCause], hk⟩
  · rw [heq, State.skipIf_halted, hh] at hf
    cases hf

/-- Only a code above 15 names no key (R200). -/
theorem lt_of_keyOfByte_none {b : Byte} (h : keyOfByte b = none) : 15 < b.toNat := by
  by_contra hb
  rw [keyOfByte_some (by omega)] at h
  cases h

/-- `EXA1` lacks a key only under `dereference` (R201). -/
theorem dereference_of_sknpKey_none {x : Nibble} (h : s.sknpKey x = none) :
    15 < (s.reg x).toNat ∧ s.params.exa1Mode = .dereference := by
  cases hmode : s.params.exa1Mode with
  | rawNibble =>
    rw [sknpKey_of_rawNibble (k := regIndex x) hmode rfl] at h
    cases h
  | dereference => exact ⟨lt_of_keyOfByte_none ((sknpKey_of_dereference hmode).symm.trans h), rfl⟩

/-! ### What a step returns -/

theorem status_of_halted (ht : t.halted = true) : t.status = .faulted t.faultCause := by
  rw [State.status, if_pos ht]

theorem status_of_waiting (ht : t.halted = false) (hw : t.waitActive = true) : t.status = .waiting := by
  simp [State.status, ht, hw]

theorem status_of_executed (ht : t.halted = false) (hw : t.waitActive = false) : t.status = .executed := by
  simp [State.status, ht, hw]

/-- A step that faults, or finds the core halted, draws nothing (R95). -/
theorem drewOf_of_halted (ht : t.halted = true) : drewOf s t = false := by
  unfold drewOf
  split
  · simp [ht]
  · rfl

theorem drewOf_of_running (hfetch : s.fetchDecode = .ok i) (ht : t.halted = false) : drewOf s t = isDrawing i := by
  simp [drewOf, hfetch, ht]

theorem isDrawing_iff : isDrawing i = true ↔ i = .cls ∨ ∃ x y n, i = .drw x y n := by
  cases i <;> simp [isDrawing]

theorem move_step {b : Byte} (hx : x.phase = .loadable ∨ x.phase = .running) (h : stepWith b x.core = .next t) :
    x.move (.step b) = some ({ core := t, phase := .running }, .stepped t.status (drewOf x.core t)) := by
  obtain hp | hp := hx <;> simp [Session.move, Session.moveStep, hp, h]

/-! ### Timers -/

theorem hostTick_of_halted (hh : s.halted = true) : hostTick s = (s, false) := by
  rw [hostTick, if_pos hh]

theorem hostTick_dt_toNat (hh : s.halted = false) : (hostTick s).1.dt.toNat = s.dt.toNat - 1 := by
  simp [hostTick_dt, hh, countDown_toNat]

/-- A tick writes the two timers only (R230). -/
theorem hostTick_frame (s : State) : (hostTick s).1 = { s with dt := (hostTick s).1.dt, st := (hostTick s).1.st } := by
  unfold hostTick
  split <;> rfl

/-- The delay timer falls by 1 with each tick and stops at 0 (R231). -/
theorem ticks_dt_toNat (n : Nat) (hh : s.halted = false) : (ticks n s).dt.toNat = s.dt.toNat - n := by
  induction n generalizing s with
  | zero => rfl
  | succ n ih => rw [ticks, ih (by rw [hostTick_halted, hh]), hostTick_dt_toNat hh, Nat.sub_sub, Nat.add_comm]

/-! ### Moves -/

/-- A move of the input port is a write of a key that has a cell (R244, R267). -/
theorem move_setKey_some {k : Byte} {held : Bool} (h : x.move (.setKey k held) = some (y, r)) :
    ∃ hk : k.toNat < 16, x.afterReset (hostSetKey ⟨k.toNat, hk⟩ held x.core, .nothing) = some (y, r) := by
  simp only [Session.move] at h
  split at h
  case isTrue hk => exact ⟨hk, h⟩
  case isFalse => cases h

/-- No move but `clear_dirty` and a reset takes `Dirty` from 1 to 0 (R29, R243). -/
theorem dirty_move {op : HostOp} (hreset : op ≠ .reset) (hclear : op ≠ .clearDirty) (h : x.move op = some (y, r))
    (hx : x.core.dirty = true) : y.core.dirty = true := by
  cases op with
  | reset => exact absurd rfl hreset
  | clearDirty => exact absurd rfl hclear
  | load image =>
    obtain ⟨-, ⟨hcore, -⟩ | ⟨hcore, -⟩⟩ := moveLoad_cases h
    · rw [hcore, State.storeRun_dirty, hx]
    · rw [hcore, hx]
  | step b => exact dirty_stepWith hx (moveStep_some h)
  | tick => rw [(afterReset_some h).1, hostTick_dirty, hx]
  | setKey k held =>
    obtain ⟨hk, h⟩ := move_setKey_some h
    rw [(afterReset_some h).1, hostSetKey_dirty, hx]
  | readFb | readFault => rw [(afterReset_some h).1, hx]

/-! ### The invariant of a session -/

/-- The byte that `CXNN` writes is in no part of the invariant. -/
theorem coreInv_randomInto_iff (x : Nibble) (nn b b' : Byte) :
    CoreInv (randomInto x nn b s) ↔ CoreInv (randomInto x nn b' s) := Iff.rfl

theorem coreInv_stepWith {b : Byte} (hs : CoreInv s) (h : stepWith b s = .next t) : CoreInv t := by
  obtain hstep | ⟨x, nn, hstep, rfl⟩ := stepWith_cases h
  · exact coreInv_step hs hstep
  · exact (coreInv_randomInto_iff x nn s.rand8 b).1 (coreInv_step hs hstep)

/-- An image inside memory keeps the invariant of a core that does not wait for a key (R262). -/
theorem coreInv_storeRun (hs : CoreInv s) (hw : s.waitActive = false) {a : Nat} {bs : List Byte}
    (hfit : a + bs.length ≤ 4096) : CoreInv (s.storeRun a bs) := by
  obtain ⟨hmem, hindex, hrecord, -, haddr⟩ := hs
  refine ⟨Memory.wf_writeRun s.params hmem a bs (.inr hfit), hindex, hrecord, fun hactive => ?_, haddr⟩
  rw [State.storeRun_waitActive, hw] at hactive
  cases hactive

/-- The timers are in no part of the invariant. -/
theorem coreInv_hostTick (hs : CoreInv s) : CoreInv (hostTick s).1 := by
  rw [hostTick_frame]
  exact hs

/-- The keys are in no part of the invariant: the waiting core's snapshot is its own. -/
theorem coreInv_hostSetKey (hs : CoreInv s) (k : Fin 16) (held : Bool) : CoreInv (hostSetKey k held s) := hs

theorem coreInv_hostClearDirty (hs : CoreInv s) : CoreInv (hostClearDirty s) := hs

/-- A move that keeps the phase keeps the session's invariant if it keeps the core's and the key wait. -/
theorem sessionInv_afterReset {q : Reply} (hx : SessionInv x) (ht : CoreInv t)
    (hwait : t.waitActive = x.core.waitActive) (h : x.afterReset (t, q) = some (y, r)) : SessionInv y := by
  obtain ⟨-, hnowait⟩ := hx
  obtain ⟨rfl, hphase, -⟩ := afterReset_some h
  exact ⟨ht, fun hp => hwait.trans (hnowait (hphase ▸ hp))⟩

/-- A load is made only before the first step, when no key wait is active (R262, R267). -/
theorem sessionInv_load {image : List Byte} (hx : SessionInv x) (h : x.move (.load image) = some (y, r)) :
    SessionInv y := by
  obtain ⟨hcore, hwait⟩ := hx
  obtain ⟨hp, ⟨heq, hlen⟩ | ⟨heq, -⟩⟩ := moveLoad_cases h
  · rw [SessionInv, heq]
    exact ⟨coreInv_storeRun hcore (hwait hp) (by omega), fun _ => hwait hp⟩
  · rw [SessionInv, heq]
    exact ⟨hcore, fun _ => hwait hp⟩

/-- After a step the session is running (R265). -/
theorem phase_moveStep {b : Byte} (h : x.moveStep b = some (y, r)) : y.phase = .running := by
  obtain ⟨t, ht⟩ := stepWith_next x.core b
  cases hp : x.phase with
  | unreset | loadRefused => simp [Session.moveStep, hp] at h
  | loadable | running =>
    simp only [Session.moveStep, hp, ht] at h
    cases h
    rfl

/-- After a step the key wait may be active, since the session is running. -/
theorem sessionInv_step {b : Byte} (hx : SessionInv x) (h : x.move (.step b) = some (y, r)) : SessionInv y := by
  have ⟨hcore, _⟩ := hx
  exact ⟨coreInv_stepWith hcore (moveStep_some h), by simp [phase_moveStep h]⟩

end

/-! ### The statements -/

/-- Settles O4: one lemma per operation that can change what the invariant speaks of; the other ports keep it as it
is. -/
theorem hostMovesKeepInv : Obligations.HostMovesKeepInv := by
  intro op x y r hx h
  have ⟨hcore, _⟩ := hx
  cases op with
  | reset =>
    cases h
    exact ⟨coreInv_resetWith x.core.params x.core.draws, fun _ => rfl⟩
  | load image => exact sessionInv_load hx h
  | step b => exact sessionInv_step hx h
  | tick => exact sessionInv_afterReset hx (coreInv_hostTick hcore) (hostTick_waitActive x.core) h
  | setKey k held =>
    obtain ⟨hk, h⟩ := move_setKey_some h
    exact sessionInv_afterReset hx (coreInv_hostSetKey hcore ⟨k.toNat, hk⟩ held) rfl h
  | clearDirty => exact sessionInv_afterReset hx (coreInv_hostClearDirty hcore) rfl h
  | readFb | readFault => exact sessionInv_afterReset hx hcore rfl h

/-- Settles O9: the record of a halted core was not kept, so the step entered a fault. -/
theorem faultEntryIsPrecise : Obligations.FaultEntryIsPrecise := by
  intro s t hh h ht
  obtain ⟨c, w, a, rfl, hc, hout, hin⟩ | ⟨hhalted, -⟩ := step_entersFault_or_keepsRecord hh h
  · have ⟨hcause, _⟩ := hc
    obtain ⟨-, -, hzero, hbounds⟩ := recordSound_raise hc s w
    exact ⟨c, w, BitVec.ofNat 16 a, rfl, hcause, hzero, hbounds, hout, hin, status_of_halted ht, drewOf_of_halted ht⟩
  · rw [hhalted, hh] at ht
    cases ht

/-- Settles O10: each instruction of R220's table by its bounds check, its stack check or its key; the others leave
`Halted` alone. -/
theorem onlyListedInstructionsFault : Obligations.OnlyListedInstructionsFault := by
  intro i s t hh h ht
  cases i
  case ldVxK x => obtain rfl | ⟨b, rfl⟩ := exec_ldVxK_cases h <;> cases hh.symm.trans ht
  all_goals obtain rfl := Host.Outcome.next.inj h
  case call | ret =>
    split at ht
    case isTrue hsp => exact ⟨by rw [if_pos hsp]; rfl, hsp⟩
    case isFalse => simp [hh] at ht
  case drw x y n =>
    obtain ⟨hcause, hout, hn⟩ := afterRun_fault hh ht rfl
    exact ⟨hcause, hout, fun h0 => hn (congrArg BitVec.toNat h0)⟩
  case ldB | ldMemStore | ldMemLoad =>
    obtain ⟨hcause, hout, -⟩ := afterRun_fault hh ht rfl
    exact ⟨hcause, hout⟩
  case skp x =>
    obtain ⟨hcause, hkey⟩ := keySkip_fault hh ht
    exact ⟨hcause, lt_of_keyOfByte_none hkey⟩
  case sknp x =>
    obtain ⟨hcause, hkey⟩ := keySkip_fault hh ht
    exact ⟨hcause, dereference_of_sknpKey_none hkey⟩
  case addReg | sub | shr | subn | shl => simp [hh] at ht
  all_goals cases hh.symm.trans ht

/-- Settles O13: the status by the three kinds of state a step ends in, and `drew` by the executed instruction. -/
theorem stepReportsStatusAndDrew : Obligations.StepReportsStatusAndDrew := by
  refine ⟨fun _ _ _ => move_step, fun s t b h => ⟨fun ht => ⟨status_of_halted ht, drewOf_of_halted ht⟩,
    status_of_waiting, status_of_executed, fun ht => ?_⟩⟩
  obtain ⟨i, hfetch⟩ := exists_fetchDecode_of_running h ht
  exact ⟨i, hfetch, by rw [drewOf_of_running hfetch ht, isDrawing_iff]⟩

/-- Settles O50: the value by `ticks_dt_toNat`, which is 0 exactly if there are enough ticks. -/
theorem delayTimerCountsDownExactly : Obligations.DelayTimerCountsDownExactly := by
  intro n s hh
  have hdt := ticks_dt_toNat n hh
  exact ⟨hdt, by rw [← BitVec.toNat_inj, hdt]; exact Nat.sub_eq_zero_iff_le⟩

/-- Settles O53: each port is a move after any reset; `Dirty` by `dirty_move`. -/
theorem hostPortsReadAndWrite : Obligations.HostPortsReadAndWrite := by
  refine ⟨fun x hx => ⟨_, afterReset_eq_some hx _, fun _ _ => rfl⟩, fun x hx => afterReset_eq_some hx _,
    fun _ _ _ _ => dirty_move, fun k held x hk hx => ⟨_, move_setKey hx (by omega) held, fun j => ?_⟩,
    fun k held x hk => dif_neg (by omega),
    fun x hx => ⟨_, afterReset_eq_some hx _, rfl, rfl, rfl, rfl, rfl⟩⟩
  simp [Vector.getElem_set, eq_comm]

/-- Settles O49: a tick of a running core counts both timers down and writes nothing else. -/
theorem tickDecrementsTimers : Obligations.TickDecrementsTimers :=
  ⟨fun _ => hostTick_of_halted,
    fun s hh => ⟨_, _, rfl, hostTick_dt_toNat hh, hostTick_st_toNat hh, hostTick_beep_iff hh, hostTick_frame s⟩,
    fun _ hx => afterReset_eq_some hx _⟩

end Sys2Proof.Proofs
end

section
/-!
PROOFS. The family of reset and hazards (70_reset_and_hazards.md): what `load` copies and what it refuses (R262, R263),
and the phases in which the host may call it (R267).
-/

namespace Sys2Proof.Proofs

open Sys2Proof Sys2Proof.Machine Sys2Proof.Safety Sys2Proof.Claims

section
variable {s : State} {x y : Session} {r : Reply} {image : List Byte}

/-! ### The operation -/

/-- R262: the bound is what memory holds from 0x200 on. -/
theorem imageFits_iff : WellFormed.imageFits image = true ↔ image.length ≤ 3584 := decide_eq_true_iff

theorem hostLoad_of_fits (h : image.length ≤ 3584) : hostLoad image s = (s.storeRun 0x200 image, .ok) :=
  if_pos (imageFits_iff.2 h)

theorem hostLoad_of_too_large (h : 3584 < image.length) : hostLoad image s = (s, .loadTooLarge) :=
  if_neg fun hfit => Nat.not_le.2 h (imageFits_iff.1 hfit)

/-! ### The moves -/

theorem move_load_of_fits (hx : x.phase = .loadable) (h : image.length ≤ 3584) : x.move (.load image) =
    some ({ core := (hostLoad image x.core).1, phase := .loadable }, .loaded .ok) := by
  simp only [Session.move, Session.moveLoad, hx, hostLoad_of_fits h]

theorem move_load_of_too_large (hx : x.phase = .loadable) (h : 3584 < image.length) :
    x.move (.load image) = some ({ core := x.core, phase := .loadRefused }, .loaded .loadTooLarge) := by
  simp only [Session.move, Session.moveLoad, hx, hostLoad_of_too_large h]

theorem move_load_of_running (hx : x.phase = .running) : x.move (.load image) = none := by
  simp only [Session.move, Session.moveLoad, hx]

theorem move_step_of_loadRefused (hx : x.phase = .loadRefused) (b : Byte) : x.move (.step b) = none := by
  simp only [Session.move, Session.moveStep, hx]

/-- A further load after a refused one, of whatever size, does not lift the bar on the step (R263). -/
theorem phase_move_load_of_loadRefused (hx : x.phase = .loadRefused) (h : x.move (.load image) = some (y, r)) :
    y.phase = .loadRefused := by
  simp only [Session.move, Session.moveLoad, hx] at h
  cases h
  rfl

/-- Only a reset leaves the phase of a refused load: a load keeps it, a step is no move, and the ports keep every
phase (R263, R267). -/
theorem phase_move_of_loadRefused {op : HostOp} (hx : x.phase = .loadRefused) (hop : op ≠ .reset)
    (h : x.move op = some (y, r)) : y.phase = .loadRefused := by
  cases op with
  | reset => exact absurd rfl hop
  | load image => exact phase_move_load_of_loadRefused hx h
  | step b => cases (move_step_of_loadRefused hx b).symm.trans h
  | setKey k held =>
    obtain ⟨_, hport⟩ := move_setKey_some h
    exact (afterReset_some hport).2.1.trans hx
  | tick | readFb | clearDirty | readFault => exact (afterReset_some h).2.1.trans hx

end

/-! ### The statements -/

/-- Settles O52: `load` is one run of writes from 0x200, and the phases follow from the two results it can have. -/
theorem loadCopiesImage : Obligations.LoadCopiesImage := by
  refine ⟨fun image s hlen => ⟨_, hostLoad_of_fits hlen, rfl, fun _ => State.readByte_storeRun_other s 0x200 image,
      fun hm => State.readByte_storeRun_inside s hm 0x200 image ?_⟩,
    fun _ _ => hostLoad_of_too_large, fun _ _ => move_load_of_fits, fun _ _ => move_load_of_too_large,
    fun _ _ => move_load_of_running, fun b _ hx => move_step_of_loadRefused hx b,
    fun _ _ _ _ => phase_move_of_loadRefused⟩
  show 512 + image.length ≤ 4096
  omega

end Sys2Proof.Proofs
end
